-- ==== Sys2Proof/Word.lean ====
section
/-! DEFINITION. The word types of the block: the byte (00_scope.md R9), the converter's 32-bit value (R9) and the
48-bit operation word (30_encoding.md R51). -/

namespace Sys2Proof

/-- A byte: 8 bits (00_scope.md R9). -/
abbrev Byte := BitVec 8

/-- The converter's numeric value: an unsigned 32-bit integer (00_scope.md R9). -/
abbrev Value := BitVec 32

/-- One operation word `OPW`: exactly 48 bits (30_encoding.md R51). -/
abbrev OpWord := BitVec 48

end Sys2Proof
end

