-- ==== Sys2Proof/Config.lean ====
section
/-! DEFINITION. What an implementation of the block fixes (the bounds and the default of `CAP`, 00_scope.md R8, and the
constants derived from it, R10) and the free values: what the spec leaves open, as constants without a body, so that no
proof can learn what they are. -/

namespace Sys2Proof

/-- The two address spaces (20_memory.md R31). -/
inductive Space where
  /-- the RX buffer -/
  | rx
  /-- the TX buffer -/
  | tx
  deriving DecidableEq, Repr

namespace Config

/-- The default capacity of the two buffers (00_scope.md R8: default 80). -/
def defaultCap : Nat := 80

/-- The constraint on the parameter `CAP` (00_scope.md R8: `3 <= CAP <= 255`). -/
abbrev LegalCap (cap : Nat) : Prop := 3 ≤ cap ∧ cap ≤ 255

/-- `CUT = CAP - 2`, the cursor value at which the framer cuts an over-long line (00_scope.md R10). -/
def cut (cap : Nat) : Nat := cap - 2

/-- `LAST = CAP - 3`, the highest index a data byte of the RX buffer can take (00_scope.md R10). -/
def last (cap : Nat) : Nat := cap - 3

/-- `IDXW = ceil(log2(CAP + 1))`, the width in bits of the cursor and of the send index (00_scope.md R10). -/
def idxWidth (cap : Nat) : Nat := Nat.clog 2 (cap + 1)

/-- `TXTMAX = 11`, the bytes of the numeric text buffer, terminator included (00_scope.md R10). -/
def txtMax : Nat := 11

/-- FREE VALUE (log entry 4). The byte that the `n`-th read of an `undef` byte of a space gives: any 8-bit value, a
fresh one at every read (20_memory.md R35; 92_eei_decisions.md D8; 93_implementation_defined.md U1). -/
opaque freeByte : Space → Nat → Byte

/-- FREE VALUE (log entry 5). What the wire carries after the `n`-th hand-over that is an overrun or follows one:
unspecified (60_exceptions.md R128, R130; 93_implementation_defined.md U12). -/
opaque freeWire : Nat → List Byte

/-- FREE VALUE (log entry 3). The parameter `arb`: which of the ports offering a word in the same instant is served first
at the `n`-th such choice (20_memory.md R47; 92_eei_decisions.md D21; 93_implementation_defined.md U13). -/
opaque freeArb : Nat → Nat

end Config

end Sys2Proof
end

