-- ==== Sys2Proof/Syntax.lean ====
section
/-! DEFINITION. The twelve operations of the block, one constructor per row of spec/opcode_table.json (30_encoding.md
R54), and who may issue each (R62). -/

namespace Sys2Proof

/-- Who sends an operation word (30_encoding.md R62): the two contexts of 60_exceptions.md R126. -/
inductive Issuer where
  /-- the peripheral: the interrupt context -/
  | peripheral
  /-- the host: the foreground -/
  | host
  deriving DecidableEq, Repr

/-- The twelve operations of the opcode map (30_encoding.md R54), with the operands of R55. -/
inductive Instr where
  /-- RXB, opcode 0x01: the peripheral has received the byte `b` (42_rx_framer.md R87) -/
  | rxb (b : Byte)
  /-- TXC, opcode 0x02: the peripheral's transmit-complete event (43_tx_drainer.md R101) -/
  | txc
  /-- RDY_RD, opcode 0x10: read the line-ready flag (42_rx_framer.md R91) -/
  | rdyRd
  /-- RDY_CLR, opcode 0x11: clear the line-ready flag (42_rx_framer.md R92) -/
  | rdyClr
  /-- RX_RD, opcode 0x12: read one byte of the RX buffer (42_rx_framer.md R93) -/
  | rxRd (idx : Byte)
  /-- TX_WR, opcode 0x20: write one byte of the TX buffer (43_tx_drainer.md R99) -/
  | txWr (idx : Byte) (b : Byte)
  /-- TX_PRIME, opcode 0x21: the forced first drain step (43_tx_drainer.md R102) -/
  | txPrime
  /-- ENC_DEC, opcode 0x30: a value to decimal text (40_numeric_encode.md R72) -/
  | encDec (v : Value)
  /-- ENC_HEX, opcode 0x31: a value to hexadecimal text, `g` = grouped (40_numeric_encode.md R73) -/
  | encHex (v : Value) (g : Bool)
  /-- DEC_DEC, opcode 0x32: decimal text of the RX buffer from `off` to a value (41_numeric_decode.md R82) -/
  | decDec (off : Byte)
  /-- DEC_HEX, opcode 0x33: hexadecimal text of the RX buffer from `off` to a value (41_numeric_decode.md R83) -/
  | decHex (off : Byte)
  /-- RST, opcode 0x7F: reset (44_system.md R109) -/
  | rst
  deriving DecidableEq, Repr

/-- The one legal issuer of each operation (30_encoding.md R54, R62). -/
def Instr.issuer : Instr → Issuer
  | .rxb _ => .peripheral
  | .txc => .peripheral
  | .rdyRd => .host
  | .rdyClr => .host
  | .rxRd _ => .host
  | .txWr _ _ => .host
  | .txPrime => .host
  | .encDec _ => .host
  | .encHex _ _ => .host
  | .decDec _ => .host
  | .decHex _ => .host
  | .rst => .host

/-- The buffer-index operand of an operation, where it has one (30_encoding.md R55: `idx`, `off`). -/
def Instr.index? : Instr → Option Byte
  | .rxb _ => none
  | .txc => none
  | .rdyRd => none
  | .rdyClr => none
  | .rxRd idx => some idx
  | .txWr idx _ => some idx
  | .txPrime => none
  | .encDec _ => none
  | .encHex _ _ => none
  | .decDec off => some off
  | .decHex off => some off
  | .rst => none

/-- One line of a script before its operands are known to fit their fields (30_encoding.md R63, R64): each mnemonic with
its operands as plain numbers, in the order of R63's table. -/
inductive ScriptOp where
  | rxb (b : Nat)
  | txc
  | rdyRd
  | rdyClr
  | rxRd (idx : Nat)
  | txWr (idx : Nat) (b : Nat)
  | txPrime
  | encDec (v : Nat)
  | encHex (v : Nat) (g : Nat)
  | decDec (off : Nat)
  | decHex (off : Nat)
  | rst
  deriving DecidableEq, Repr

/-- One line of a script: an operation, or a pseudo-instruction (30_encoding.md R65 to R68). A string operand is the list
of its bytes, without a terminator (R64). -/
inductive ScriptItem where
  /-- an operation of R63's table -/
  | op (o : ScriptOp)
  /-- `FEED "s"` (R65) -/
  | feed (text : List Byte)
  /-- `SEND "s"` (R66) -/
  | send (text : List Byte)
  /-- `SENDLN "s"` (R66) -/
  | sendln (text : List Byte)
  /-- `DRAIN` (R67) -/
  | drain
  /-- `WAIT_RDY` (R68) -/
  | waitRdy
  /-- `READ_LINE` (R68) -/
  | readLine
  deriving DecidableEq, Repr

end Sys2Proof
end

