-- ==== Sys2Proof/WellFormed.lean ====
section
/-! DEFINITION. The checks on syntax: the legal operand values of an operation (30_encoding.md R55) and of a script line
(R64, R66). An operation that fails its check is still an operation: it is served and refused with `ST_INDEX` (R56);
a script line that fails is an error of the script and no operation at all (R64). -/

namespace Sys2Proof

/-- The legal operand values of an operation for a buffer of `cap` bytes: an index operand is `< CAP`, every other
operand is legal (30_encoding.md R55). -/
def Instr.wellFormed (cap : Nat) (i : Instr) : Bool :=
  match i.index? with
  | some idx => decide (idx.toNat < cap)
  | none => true

/-- Does every operand of a script line fit its field: a byte at most 0xFF, an index at most 0xFF, a value at most
0xFFFFFFFF, `g` at most 1 (30_encoding.md R64)? -/
def ScriptOp.fits : ScriptOp → Bool
  | .rxb b => decide (b ≤ 0xFF)
  | .txc => true
  | .rdyRd => true
  | .rdyClr => true
  | .rxRd idx => decide (idx ≤ 0xFF)
  | .txWr idx b => decide (idx ≤ 0xFF) && decide (b ≤ 0xFF)
  | .txPrime => true
  | .encDec v => decide (v ≤ 0xFFFFFFFF)
  | .encHex v g => decide (v ≤ 0xFFFFFFFF) && decide (g ≤ 1)
  | .decDec off => decide (off ≤ 0xFF)
  | .decHex off => decide (off ≤ 0xFF)
  | .rst => true

/-- Is a script line none that R64 or R66 calls an error of the script: operands fit, and the text of SEND and SENDLN
leaves a slot for its terminator (30_encoding.md R66: `n <= CAP - 1`, `len(s) + 2 <= CAP - 1`)? -/
def ScriptItem.wellFormed (cap : Nat) : ScriptItem → Bool
  | .op o => o.fits
  | .feed _ => true
  | .send text => decide (text.length ≤ cap - 1)
  | .sendln text => decide (text.length + 2 ≤ cap - 1)
  | .drain => true
  | .waitRdy => true
  | .readLine => true

end Sys2Proof
end

