-- ==== Sys2Proof/Decode.lean ====
section
/-! DEFINITION. The operation word: its fields (30_encoding.md R52), the twelve rows of the opcode map (R54), the total
decoder (R56) and the encoder (R52, R53, R63). -/

namespace Sys2Proof

/-- `op = OPW[47:40]` (30_encoding.md R52). -/
def fieldOp (w : OpWord) : Byte := w.extractLsb' 40 8

/-- `aux = OPW[39:32]`: the operand `idx` or `off` (30_encoding.md R52, R55). -/
def fieldAux (w : OpWord) : Byte := w.extractLsb' 32 8

/-- `data = OPW[31:0]`: the operand `v` (30_encoding.md R52, R55). -/
def fieldData (w : OpWord) : Value := w.extractLsb' 0 32

/-- The operand `b = OPW[7:0]` (30_encoding.md R55). -/
def fieldB (w : OpWord) : Byte := w.extractLsb' 0 8

/-- The operand `g = OPW[32]` (30_encoding.md R55). -/
def fieldG (w : OpWord) : Bool := w.getLsbD 32

/-- One row of the opcode map: a word `w` selects the row when `w AND mask = match` (30_encoding.md R54); `operands`
takes the row's operands from the word (R55). -/
structure Row where
  pattern : OpWord
  mask : OpWord
  operands : OpWord → Instr

/-- The twelve rows of the opcode map, in its order (30_encoding.md R54). -/
def rows : List Row :=
  [ ⟨0x010000000000, 0xFFFFFFFFFF00, fun w => .rxb (fieldB w)⟩,
    ⟨0x020000000000, 0xFFFFFFFFFFFF, fun _ => .txc⟩,
    ⟨0x100000000000, 0xFFFFFFFFFFFF, fun _ => .rdyRd⟩,
    ⟨0x110000000000, 0xFFFFFFFFFFFF, fun _ => .rdyClr⟩,
    ⟨0x120000000000, 0xFF00FFFFFFFF, fun w => .rxRd (fieldAux w)⟩,
    ⟨0x200000000000, 0xFF00FFFFFF00, fun w => .txWr (fieldAux w) (fieldB w)⟩,
    ⟨0x210000000000, 0xFFFFFFFFFFFF, fun _ => .txPrime⟩,
    ⟨0x300000000000, 0xFFFF00000000, fun w => .encDec (fieldData w)⟩,
    ⟨0x310000000000, 0xFFFE00000000, fun w => .encHex (fieldData w) (fieldG w)⟩,
    ⟨0x320000000000, 0xFF00FFFFFFFF, fun w => .decDec (fieldAux w)⟩,
    ⟨0x330000000000, 0xFF00FFFFFFFF, fun w => .decHex (fieldAux w)⟩,
    ⟨0x7F0000000000, 0xFFFFFFFFFFFF, fun _ => .rst⟩ ]

/-- Does the word select the row (30_encoding.md R54)? -/
def rowMatches (w : OpWord) (r : Row) : Bool := w &&& r.mask == r.pattern

/-- The row that a word selects, if any (30_encoding.md R54, R56). -/
def rowOf (w : OpWord) : Option Row := rows.find? (rowMatches w)

/-- The operation that a word stands for, whoever sends it (30_encoding.md R54, R55). -/
def decodeWord (w : OpWord) : Option Instr := (rowOf w).map fun r => r.operands w

/-- Is the value one of the twelve opcodes of the map (30_encoding.md R54)? Every other value is reserved (R60). -/
def opcodeAssigned (op : Byte) : Bool := rows.any fun r => fieldOp r.pattern == op

/-- Why a word is illegal (30_encoding.md R56; 60_exceptions.md R113). Each answers `ST_ILLEGAL`. -/
inductive DecodeError where
  /-- the opcode is not in the map: reserved (R60; 93_implementation_defined.md U15) -/
  | unassignedOpcode
  /-- an assigned opcode with a non-zero bit in a must-be-zero field (R53; U16) -/
  | mustBeZero
  /-- an operation from an issuer that may not send it (R62; U17) -/
  | wrongIssuer
  deriving DecidableEq, Repr

/-- The verdict on a word from an issuer (30_encoding.md R56), total: the row, then its issuer. R56's third line, the
range of an index operand, needs `CAP` and is the first line of each operation that has one (42_rx_framer.md R93). -/
def decode (issuer : Issuer) (w : OpWord) : Except DecodeError Instr :=
  match decodeWord w with
  | none => .error (if opcodeAssigned (fieldOp w) then .mustBeZero else .unassignedOpcode)
  | some i => if i.issuer = issuer then .ok i else .error .wrongIssuer

/-- The operation that the table's word `w` of `nbits` bits decodes to: the bits above `nbits` are 0, and the word is
the 48-bit word of 30_encoding.md R51. -/
def decodeTableWord (nbits w : Nat) : Option Instr :=
  if nbits ≤ 48 ∧ w < 2 ^ nbits then decodeWord (BitVec.ofNat 48 w) else none

/-- `OPW = op ++ aux ++ data` (30_encoding.md R52). -/
def opWord (op aux : Byte) (data : Value) : OpWord := op ++ aux ++ data

/-- The operation word of an operation (30_encoding.md R53, R63). -/
def encode : Instr → OpWord
  | .rxb b => opWord 0x01 0x00 (b.zeroExtend 32)
  | .txc => opWord 0x02 0x00 0
  | .rdyRd => opWord 0x10 0x00 0
  | .rdyClr => opWord 0x11 0x00 0
  | .rxRd idx => opWord 0x12 idx 0
  | .txWr idx b => opWord 0x20 idx (b.zeroExtend 32)
  | .txPrime => opWord 0x21 0x00 0
  | .encDec v => opWord 0x30 0x00 v
  | .encHex v g => opWord 0x31 ((BitVec.ofBool g).zeroExtend 8) v
  | .decDec off => opWord 0x32 off 0
  | .decHex off => opWord 0x33 off 0
  | .rst => opWord 0x7F 0x00 0

end Sys2Proof
end

