-- ==== Sys2Proof/Machine/Codes.lean ====
section
/-! DEFINITION. The byte codes (00_scope.md R12). -/

namespace Sys2Proof.Machine

open Sys2Proof

/-- `TERM`, NUL: the sentinel terminator (00_scope.md R12). -/
def codeTerm : Byte := 0x00
/-- BEL, `\a` (00_scope.md R12). -/
def codeBel : Byte := 0x07
/-- LF, `\n` (00_scope.md R12). -/
def codeLf : Byte := 0x0A
/-- FF, `\f`: a line terminator (00_scope.md R12). -/
def codeFf : Byte := 0x0C
/-- CR, `\r`: a line terminator (00_scope.md R12). -/
def codeCr : Byte := 0x0D
/-- SP: the separator space (00_scope.md R12). -/
def codeSp : Byte := 0x20

/-- The bytes that end a line: CR and FF, and no other (42_rx_framer.md R89). -/
def isLineEnd (b : Byte) : Bool := b == codeCr || b == codeFf

end Sys2Proof.Machine
end

