-- ==== Sys2Proof/Machine/State.lean ====
section
/-! DEFINITION. The state: the five items of the block (10_state.md R13), the peripheral's bookkeeping (R27), what R30
makes parameters of the step relation (the capacity, the words offered, the counters that index the free values), and the
outputs of the last step (30_encoding.md R57, R59). -/

namespace Sys2Proof.Machine

open Sys2Proof

/-- The status codes of `RES.st` (60_exceptions.md R112); their numbers are `statusCode`. -/
inductive Status where
  /-- `ST_OK`, 0x00: success -/
  | ok
  /-- `ST_ILLEGAL`, 0x01: the word selects no operation of its issuer (R113) -/
  | illegal
  /-- `ST_INDEX`, 0x02: an index operand `>= CAP` (R114) -/
  | index
  /-- `ST_OVERFLOW`, 0x03: the text is above 32 bits (R115) -/
  | overflow
  /-- `ST_MALFORMED`, 0x04: the text holds a byte that is no digit (R116) -/
  | malformed
  deriving DecidableEq, Repr

/-- The fields of the result word `RES` (30_encoding.md R57); its 104 bits are `resWord`. -/
structure Res where
  st : Status
  len : BitVec 8
  data : BitVec 88
  deriving DecidableEq, Repr

/-- The ports on which words arrive (30_encoding.md R59). -/
inductive Port where
  /-- `rx_valid`, `rx_data`: the peripheral's receive events -/
  | rx
  /-- `txc`: the peripheral's transmit-complete events -/
  | txc
  /-- `cmd_valid`, `cmd`: the host's words -/
  | cmd
  deriving DecidableEq, Repr

/-- One word offered on a port. `injected` marks a word that a test puts on a peripheral port and the peripheral did not
send (30_encoding.md R67; 60_exceptions.md R129, R130; log entry 6); it means nothing on the host's port. -/
structure Offer where
  port : Port
  word : OpWord
  injected : Bool
  deriving DecidableEq, Repr

/-- What is offered in one instant: the level of the `rst` pin (44_system.md R110) and the words on the ports
(20_memory.md R47; 30_encoding.md R59). -/
structure Instant where
  rst : Bool
  offers : List Offer
  deriving DecidableEq, Repr

/-- The content of a buffer: the bytes that have been written since reset, by index, indices strictly rising. An index
that is not listed is `undef` (20_memory.md R35). -/
abbrev Memory := List Host.Cell

/-- The machine. -/
structure State where
  -- the block (10_state.md R13)
  /-- `rx_buf`: the RX buffer -/
  rxBuf : Memory
  /-- `rx_cur`: the RX write cursor, `IDXW` bits (log entry 8) -/
  rxCur : Nat
  /-- `rx_ready`: the line-ready flag -/
  rxReady : Bool
  /-- `tx_buf`: the TX buffer -/
  txBuf : Memory
  /-- `tx_idx`: the TX send index, `IDXW` bits (log entry 8) -/
  txIdx : Nat
  -- the peripheral's bookkeeping (10_state.md R27)
  /-- `tx_busy`: a byte handed over has not yet completed on the wire -/
  txBusy : Bool
  /-- `wire_tx`: every byte transmitted, in order -/
  wireTx : List Byte
  /-- `f_txovr`: a transmit happened while `tx_busy = 1`; sticky -/
  fTxovr : Bool
  -- the parameters of the step relation (10_state.md R30)
  /-- `CAP`: the capacity of each buffer; no step writes it (log entry 1) -/
  cap : Nat
  /-- the words that arrive, instant by instant (log entry 2) -/
  inputs : List Instant
  /-- how many `undef` bytes of the RX buffer have been read (log entry 4) -/
  rxDraws : Nat
  /-- how many `undef` bytes of the TX buffer have been read (log entry 4) -/
  txDraws : Nat
  /-- how many times the wire's content has become unspecified (log entry 5) -/
  wireDraws : Nat
  /-- how many times the order of words offered together has been chosen (log entry 3) -/
  arbDraws : Nat
  -- the outputs of the last step (log entry 7)
  /-- `RES`: the result word of the operation that the last step served, none where it served none -/
  res : Option Res
  /-- `tx_valid`, `tx_data`: the byte that the last step handed to the peripheral, none where it handed over none -/
  txOut : Option Byte
  /-- the issuer of the word that the last step served, none where it served none -/
  served : Option Issuer
  deriving DecidableEq, Repr

/-- Why the machine stops. -/
inductive Fault where
  /-- Raised by RXB where `rx_cur >= CAP`: the byte would go to an index that 20_memory.md R31 does not give the RX
  space. 10_state.md R22 says that no run reaches such a state. SAFE: the machine stops and nothing is claimed of it
  (log entry 9). -/
  | rxCursorOutside
  deriving DecidableEq, Repr

/-- Why an instruction has no meaning. -/
inductive Refusal where
  /-- Raised by an arm of `exec` for an instruction whose meaning is not written; no arm of this model raises it. SAFE:
  the machine stops and nothing is claimed of it. -/
  | notModelled (mnemonic : String)
  deriving DecidableEq, Repr

/-- The machine right after reset (10_state.md R28): cursors and flag 0, both buffers `undef`; the peripheral idle and
the wire empty, as every trace of 95_test_vectors.md starts (log entry 14); `CAP` at its default (00_scope.md R8); no
word offered, no output, every counter of the model 0. -/
def State.reset : State where
  rxBuf := []
  rxCur := 0
  rxReady := false
  txBuf := []
  txIdx := 0
  txBusy := false
  wireTx := []
  fTxovr := false
  cap := Config.defaultCap
  inputs := []
  rxDraws := 0
  txDraws := 0
  wireDraws := 0
  arbDraws := 0
  res := none
  txOut := none
  served := none

end Sys2Proof.Machine
end

