-- ==== Sys2Proof/Machine/Ops.lean ====
section
/-! DEFINITION. The named operations over the buffers, the registers and the outputs: `MemRead` and `MemWrite`
(00_scope.md R11), the result word (30_encoding.md R57), `refuse` (00_scope.md R11; this block's form of taking an
exception, 60_exceptions.md R124), `transmit` (60_exceptions.md R128), the scan of the decoders (41_numeric_decode.md
R81), the drain step (43_tx_drainer.md R100) and the effect of a reset (44_system.md R109). -/

namespace Sys2Proof.Machine

open Sys2Proof

/-! ### The content of a buffer -/

/-- The byte at an index of a buffer's content, none where it is `undef` (20_memory.md R35). -/
def memGet : Memory → Nat → Option Byte
  | [], _ => none
  | (a, b) :: m, i => if i = a then some b else memGet m i

/-- A buffer's content with the byte `b` at index `i`, indices still strictly rising. -/
def memPut : Memory → Nat → Byte → Memory
  | [], i, b => [(i, b)]
  | (a, c) :: m, i, b =>
    if i < a then (i, b) :: (a, c) :: m
    else if i = a then (i, b) :: m
    else (a, c) :: memPut m i b

/-- Are a content's indices strictly rising and all at least `lo`? -/
def memRising : Nat → Memory → Bool
  | _, [] => true
  | lo, (a, _) :: m => decide (lo ≤ a) && memRising (a + 1) m

/-- The canonical form: indices strictly rising, each below the capacity. An unlisted index reads as `undef`, which is
no byte, so no entry can equal what an unlisted index reads as. -/
def Memory.wf (cap : Nat) (m : Memory) : Bool :=
  memRising 0 m && m.all fun c => decide (c.1 < cap)

/-! ### Reading and writing a byte of a space (20_memory.md R31, R35, R36) -/

/-- The content of a space. -/
def spaceBuf (s : State) : Space → Memory
  | .rx => s.rxBuf
  | .tx => s.txBuf

/-- How many `undef` bytes of a space have been read. -/
def spaceDraws (s : State) : Space → Nat
  | .rx => s.rxDraws
  | .tx => s.txDraws

/-- What `MemRead(S, i, 1)` gives: the byte written there, or for `undef` a fresh free value (20_memory.md R35). Every
caller has `i < CAP`. -/
def readByte (sp : Space) (i : Nat) (s : State) : Byte :=
  (memGet (spaceBuf s sp) i).getD (Config.freeByte sp (spaceDraws s sp))

/-- The state with the count of draws of a space set. -/
def setDraws (sp : Space) (n : Nat) (s : State) : State :=
  match sp with
  | .rx => { s with rxDraws := n }
  | .tx => { s with txDraws := n }

/-- The state after `MemRead(S, i, 1)`: the same (20_memory.md R38: no read has a side effect), but that a read of
`undef` uses up one free value. -/
def afterRead (sp : Space) (i : Nat) (s : State) : State :=
  match memGet (spaceBuf s sp) i with
  | some _ => s
  | none => setDraws sp (spaceDraws s sp + 1) s

/-- The state after `MemWrite(S, i, 1, b)`. Every caller has `i < CAP`. -/
def writeByte (sp : Space) (i : Nat) (b : Byte) (s : State) : State :=
  match sp with
  | .rx => { s with rxBuf := memPut s.rxBuf i b }
  | .tx => { s with txBuf := memPut s.txBuf i b }

/-! ### The cursors (10_state.md R16) -/

/-- `rx_cur <- n`. -/
def setRxCur (n : Nat) (s : State) : State := { s with rxCur := n }

/-- `tx_idx <- n`. -/
def setTxIdx (n : Nat) (s : State) : State := { s with txIdx := n }

/-! ### The result word (30_encoding.md R57) and the outputs of a step -/

/-- The number of a status code (60_exceptions.md R112). -/
def statusCode : Status → BitVec 8
  | .ok => 0x00
  | .illegal => 0x01
  | .index => 0x02
  | .overflow => 0x03
  | .malformed => 0x04

/-- The 104 bits of a result word: `st ++ len ++ data` (30_encoding.md R57). -/
def resWord (r : Res) : BitVec 104 := statusCode r.st ++ r.len ++ r.data

/-- Eleven bytes of `RES.data` from a text: byte `k` of the text is `data[8k+7:8k]` (30_encoding.md R57; 20_memory.md
R37), every byte above the text is 0x00. -/
def packText : List Byte → BitVec 88
  | [] => 0
  | b :: bs => (packText bs <<< 8) ||| b.zeroExtend 88

/-- Byte `k` of `RES.data`: `data[8k+7:8k]` (30_encoding.md R57). -/
def resByte (r : Res) (k : Nat) : Byte := r.data.extractLsb' (8 * k) 8

/-- `result(ST_OK, 0, 0)`. -/
def resOk : Res := ⟨.ok, 0, 0⟩

/-- The result of an operation that moved one byte: `result(ST_OK, 1, zext_88(b))` (30_encoding.md R58). -/
def resOfByte (b : Byte) : Res := ⟨.ok, 1, b.zeroExtend 88⟩

/-- An operation answers: its result word, and the byte it handed to `transmit`, if any. -/
def reply (r : Res) (tx : Option Byte) (s : State) : State := { s with res := some r, txOut := tx }

/-- `refuse ST_x` (00_scope.md R11): no change to any state, `result(ST_x, 0, 0)`, and no output. This is all that an
exception does in this block (60_exceptions.md R124): nothing is saved, no mode changes, control goes nowhere, and so
there is no return either (R125). -/
def refuse (st : Status) (s : State) : State := reply ⟨st, 0, 0⟩ none s

/-! ### Handing a byte to the peripheral (60_exceptions.md R128) -/

/-- `transmit(b)` with the peripheral's bookkeeping (60_exceptions.md R128). From an overrun on the wire's content is
unspecified (R130): a free value, drawn again at every later hand-over (log entry 5). -/
def transmit (b : Byte) (s : State) : State :=
  if s.txBusy then
    { s with fTxovr := true, wireTx := Config.freeWire s.wireDraws, wireDraws := s.wireDraws + 1 }
  else if s.fTxovr then
    { s with txBusy := true, wireTx := Config.freeWire s.wireDraws, wireDraws := s.wireDraws + 1 }
  else
    { s with txBusy := true, wireTx := s.wireTx ++ [b] }

/-- The peripheral's side of its transmit-complete event: `tx_busy <- 0` (60_exceptions.md R129). -/
def completeByte (s : State) : State := { s with txBusy := false }

/-! ### The drain step (43_tx_drainer.md R100) -/

/-- `drain_step()`: the bound is tested first, and the buffer is not read when `tx_idx >= CAP` (43_tx_drainer.md R103). -/
def drainStep (s : State) : State :=
  if s.txIdx < s.cap then
    if readByte .tx s.txIdx s ≠ codeTerm then
      reply (resOfByte (readByte .tx s.txIdx s)) (some (readByte .tx s.txIdx s))
        (setTxIdx (s.txIdx + 1) (transmit (readByte .tx s.txIdx s) (afterRead .tx s.txIdx s)))
    else
      reply resOk none (setTxIdx 0 (afterRead .tx s.txIdx s))
  else
    reply resOk none (setTxIdx 0 s)

/-! ### The scan of the decoders (41_numeric_decode.md R81) -/

/-- The loop of `scan`, `fuel` bytes before the end of the buffer, at index `i` of a content `m`, with `draws` reads of
`undef` and the text `s` before it: the whole text and the count of draws after it. -/
def scanLoop : Nat → Memory → Nat → Nat → List Byte → List Byte × Nat
  | 0, _, _, draws, s => (s, draws)
  | fuel + 1, m, i, draws, s =>
    match memGet m i with
    | some c => if c = codeTerm then (s, draws) else scanLoop fuel m (i + 1) draws (s ++ [c])
    | none =>
      if Config.freeByte .rx draws = codeTerm then (s, draws + 1)
      else scanLoop fuel m (i + 1) (draws + 1) (s ++ [Config.freeByte .rx draws])

/-- `scan(off)`: the text from `off` up to the first `TERM` or the end of the buffer (41_numeric_decode.md R81). -/
def scanText (off : Nat) (s : State) : List Byte := (scanLoop (s.cap - off) s.rxBuf off s.rxDraws []).1

/-- The state after `scan(off)`: the same but for the free values used up. -/
def afterScan (off : Nat) (s : State) : State :=
  setDraws .rx (scanLoop (s.cap - off) s.rxBuf off s.rxDraws []).2 s

/-! ### Reset (44_system.md R109, R110) -/

/-- What a reset does to the state, by the RST operation or by the `rst` pin: the five items of the block go to their
reset values, and nothing else is touched (44_system.md R109; 70_reset_and_hazards.md R135). -/
def resetBlock (s : State) : State :=
  { s with rxCur := 0, rxReady := false, txIdx := 0, rxBuf := [], txBuf := [] }

end Sys2Proof.Machine
end

