-- ==== Sys2Proof/Machine/Codec.lean ====
section
/-! DEFINITION. The pure functions of the converter CVT: integer to text (40_numeric_encode.md R69 to R71) and text to
integer (41_numeric_decode.md R77 to R80). They touch no state (00_scope.md R1; 40_numeric_encode.md R76). -/

namespace Sys2Proof.Machine

open Sys2Proof

/-! ### Integer to text -/

/-- `decdigit(d)`, for `d <= 9` (40_numeric_encode.md R69). -/
def decdigit (d : Nat) : Byte := 0x30 + BitVec.ofNat 8 d

/-- `hexdigit(n)`, for `n <= 15`, upper case (40_numeric_encode.md R69). -/
def hexdigit (n : Nat) : Byte := if n ≤ 9 then 0x30 + BitVec.ofNat 8 n else 0x41 + BitVec.ofNat 8 (n - 10)

/-- The loop of `encode_decimal`, at most `fuel` rounds: the digits of `v`, least significant first, after `s`
(40_numeric_encode.md R70). -/
def encodeDecimalLoop : Nat → Nat → List Byte → List Byte
  | 0, _, s => s
  | fuel + 1, v, s => if 0 < v then encodeDecimalLoop fuel (v / 10) (s ++ [decdigit (v % 10)]) else s

/-- `encode_decimal(v)`: the shortest decimal text of `v`, most significant digit first, without terminator
(40_numeric_encode.md R70). Ten rounds are enough for 32 bits (R75). -/
def encodeDecimal (v : Value) : List Byte :=
  if v = 0 then [0x30] else (encodeDecimalLoop 10 v.toNat []).reverse

/-- `quad(h)`: four hexadecimal digits of a 16-bit number (40_numeric_encode.md R71). -/
def quad (h : BitVec 16) : List Byte :=
  [ hexdigit (h.extractLsb' 12 4).toNat, hexdigit (h.extractLsb' 8 4).toNat,
    hexdigit (h.extractLsb' 4 4).toNat, hexdigit (h.extractLsb' 0 4).toNat ]

/-- `encode_hex(v, g)`: 4 digits for `v <= 0xFFFF`, else 8, with a space between the groups when grouped
(40_numeric_encode.md R71). -/
def encodeHex (v : Value) (g : Bool) : List Byte :=
  if v ≤ 0xFFFF then quad (v.extractLsb' 0 16)
  else if g then quad (v.extractLsb' 16 16) ++ [codeSp] ++ quad (v.extractLsb' 0 16)
  else quad (v.extractLsb' 16 16) ++ quad (v.extractLsb' 0 16)

/-! ### Text to integer -/

/-- One of R77's spans of codes: from `first` on, `count` digits of values `least`, `least + 1`, ...; none for a code outside
the span (41_numeric_decode.md R77). -/
def spanValue (first count least : Nat) (c : Byte) : Option Nat :=
  if c.toNat - first < count ∧ first ≤ c.toNat then some (least + (c.toNat - first)) else none

/-- `decval(c)`, none where it is not defined: '0' to '9' (41_numeric_decode.md R77). -/
def decval (c : Byte) : Option Nat := spanValue 0x30 10 0 c

/-- `hexval(c)`, none where it is not defined: '0' to '9', 'A' to 'F' and 'a' to 'f' (41_numeric_decode.md R77). The
three spans do not meet. -/
def hexval (c : Byte) : Option Nat := decval c <|> spanValue 0x41 6 10 c <|> spanValue 0x61 6 10 c

/-- What a decoder returns: status, value, position (41_numeric_decode.md R78). -/
structure Decoded where
  st : Status
  val : Nat
  pos : Nat
  deriving DecidableEq, Repr

/-- The loop of `decode_decimal` over the bytes left, with the value so far and the position of the next byte
(41_numeric_decode.md R78); the overflow test is exact (R79). -/
def decodeDecimalLoop : List Byte → Nat → Nat → Decoded
  | [], val, k => ⟨.ok, val, k⟩
  | c :: cs, val, k =>
    match decval c with
    | none => ⟨.malformed, 0, k⟩
    | some d => if 4294967295 < val * 10 + d then ⟨.overflow, 0, k⟩ else decodeDecimalLoop cs (val * 10 + d) (k + 1)

/-- `decode_decimal(s)` (41_numeric_decode.md R78). -/
def decodeDecimal (text : List Byte) : Decoded := decodeDecimalLoop text 0 0

/-- The loop of `decode_hex` over the bytes left, with the value so far and the position of the next byte; a space is
skipped and counted (41_numeric_decode.md R80). `val << 4 | nibble` is `val * 16 + nibble`, no bit lost (R80). -/
def decodeHexLoop : List Byte → Nat → Nat → Decoded
  | [], val, k => ⟨.ok, val, k⟩
  | c :: cs, val, k =>
    if c = codeSp then decodeHexLoop cs val (k + 1)
    else match hexval c with
      | none => ⟨.malformed, 0, k⟩
      | some d => if 0x10000000 ≤ val then ⟨.overflow, 0, k⟩ else decodeHexLoop cs (val <<< 4 ||| d) (k + 1)

/-- `decode_hex(s)` (41_numeric_decode.md R80). -/
def decodeHex (text : List Byte) : Decoded := decodeHexLoop text 0 0

end Sys2Proof.Machine
end

