-- ==== Sys2Proof/Machine/Operands.lean ====
section
/-! DEFINITION. How an operand is used (30_encoding.md R55): a buffer index is an unsigned number 0 to 255, legal when
`< CAP`; a byte, a value and the grouped flag are used as they are; nothing is sign-extended, scaled or shifted. -/

namespace Sys2Proof.Machine

open Sys2Proof

/-- A buffer-index operand as a number (30_encoding.md R55). -/
def indexOf (idx : Byte) : Nat := idx.toNat

/-- Is a buffer-index operand legal: `< CAP` (30_encoding.md R55)? Otherwise the operation is refused with `ST_INDEX`
(60_exceptions.md R114). -/
def indexLegal (idx : Byte) (s : State) : Bool := decide (indexOf idx < s.cap)

/-- `zext_88(v)` of a 32-bit value: `data[31:0] = v`, the bits above zero (30_encoding.md R57). -/
def valueData (v : Value) : BitVec 88 := v.zeroExtend 88

/-- A count of bytes as the 8-bit field `len` (30_encoding.md R57); every count is at most `CAP <= 255` (00_scope.md R8). -/
def countField (n : Nat) : BitVec 8 := BitVec.ofNat 8 n

end Sys2Proof.Machine
end

