-- ==== Sys2Proof/Machine/Converter.lean ====
section
/-! DEFINITION. The operations of the converter CVT: ENC_DEC, ENC_HEX (40_numeric_encode.md), DEC_DEC, DEC_HEX
(41_numeric_decode.md). -/

namespace Sys2Proof.Machine

open Sys2Proof

/-- The result of an encode operation: `len` counts the characters, the terminator is the 0x00 byte above them
(40_numeric_encode.md R72, R73; 92_eei_decisions.md D18). -/
def resOfText (text : List Byte) : Res := ⟨.ok, countField text.length, packText text⟩

/-- The result of a decode operation: `result(st, pos, zext_88(val))` (41_numeric_decode.md R82, R83). -/
def resOfDecoded (d : Decoded) : Res := ⟨d.st, countField d.pos, valueData (BitVec.ofNat 32 d.val)⟩

/-- ENC_DEC `v` (40_numeric_encode.md R72). -/
def execEncDec (v : Value) (s : State) : Host.Outcome State Fault Refusal :=
  .next (reply (resOfText (encodeDecimal v)) none s)

/-- ENC_HEX `v`, `g` (40_numeric_encode.md R73). -/
def execEncHex (v : Value) (g : Bool) (s : State) : Host.Outcome State Fault Refusal :=
  .next (reply (resOfText (encodeHex v g)) none s)

/-- DEC_DEC `off` (41_numeric_decode.md R82). -/
def execDecDec (off : Byte) (s : State) : Host.Outcome State Fault Refusal :=
  if indexLegal off s then
    .next (reply (resOfDecoded (decodeDecimal (scanText (indexOf off) s))) none (afterScan (indexOf off) s))
  else .next (refuse .index s)

/-- DEC_HEX `off` (41_numeric_decode.md R83). -/
def execDecHex (off : Byte) (s : State) : Host.Outcome State Fault Refusal :=
  if indexLegal off s then
    .next (reply (resOfDecoded (decodeHex (scanText (indexOf off) s))) none (afterScan (indexOf off) s))
  else .next (refuse .index s)

end Sys2Proof.Machine
end

