-- ==== Sys2Proof/Machine/Flags.lean ====
section
/-! DEFINITION. The block's one flag, `rx_ready` (10_state.md R17): set by the framer, cleared by RDY_CLR and by a reset,
read by RDY_RD and on the level output. There are no condition codes. -/

namespace Sys2Proof.Machine

open Sys2Proof

/-- `rx_ready <- 1`; a flag that is already 1 stays 1 (10_state.md R17; 42_rx_framer.md R90). -/
def raiseReady (s : State) : State := { s with rxReady := true }

/-- `rx_ready <- 0` (42_rx_framer.md R92). -/
def clearReady (s : State) : State := { s with rxReady := false }

/-- `zext_88(rx_ready)`: `data[0] = rx_ready` (42_rx_framer.md R91). -/
def readyData (s : State) : BitVec 88 := (BitVec.ofBool s.rxReady).zeroExtend 88

end Sys2Proof.Machine
end

