-- ==== Sys2Proof/Machine/Rx.lean ====
section
/-! DEFINITION. The RX line-framer RXF: RXB, RDY_RD, RDY_CLR, RX_RD (42_rx_framer.md). -/

namespace Sys2Proof.Machine

open Sys2Proof

/-- A line completes: the sentinel goes to index `i`, the flag is set, the cursor goes back to 0 (42_rx_framer.md R87,
the first two branches). -/
def completeLine (i : Nat) (s : State) : State := setRxCur 0 (raiseReady (writeByte .rx i codeTerm s))

/-- The state of the block after RXB `b` (42_rx_framer.md R87): the byte is appended at the cursor; a CR or FF is
overwritten with the sentinel; at `CUT = CAP - 2` the line is cut (R88). -/
def frameByte (b : Byte) (s : State) : State :=
  if isLineEnd b then completeLine s.rxCur (writeByte .rx s.rxCur b s)
  else if s.rxCur + 1 = Config.cut s.cap then completeLine (s.rxCur + 1) (writeByte .rx s.rxCur b s)
  else setRxCur (s.rxCur + 1) (writeByte .rx s.rxCur b s)

/-- RXB `b` (42_rx_framer.md R87). On entry `rx_cur <= CAP - 3` (10_state.md R22); a cursor outside the buffer, which no
run reaches, is a fault (log entry 9). -/
def execRxb (b : Byte) (s : State) : Host.Outcome State Fault Refusal :=
  if s.rxCur < s.cap then .next (reply resOk none (frameByte b s)) else .fault .rxCursorOutside

/-- RDY_RD (42_rx_framer.md R91): the flag is returned and not cleared. -/
def execRdyRd (s : State) : Host.Outcome State Fault Refusal :=
  .next (reply ⟨.ok, 0, readyData s⟩ none s)

/-- RDY_CLR (42_rx_framer.md R92): the flag is cleared, whatever it was. -/
def execRdyClr (s : State) : Host.Outcome State Fault Refusal :=
  .next (reply resOk none (clearReady s))

/-- RX_RD `idx` (42_rx_framer.md R93): served whatever the flag is; an `undef` byte reads as any value (20_memory.md R35). -/
def execRxRd (idx : Byte) (s : State) : Host.Outcome State Fault Refusal :=
  if indexLegal idx s then
    .next (reply (resOfByte (readByte .rx (indexOf idx) s)) none (afterRead .rx (indexOf idx) s))
  else .next (refuse .index s)

end Sys2Proof.Machine
end

