-- ==== Sys2Proof/Machine/System.lean ====
section
/-! DEFINITION. The one system operation, RST (44_system.md). -/

namespace Sys2Proof.Machine

open Sys2Proof

/-- RST (44_system.md R109): the five items of the block go to their reset values; nothing is transmitted, and the
peripheral's bookkeeping is not touched (70_reset_and_hazards.md R135). -/
def execRst (s : State) : Host.Outcome State Fault Refusal := .next (reply resOk none (resetBlock s))

end Sys2Proof.Machine
end

