-- ==== Sys2Proof/Machine/Tx.lean ====
section
/-! DEFINITION. The TX byte-drainer TXD: TX_WR, TXC, TX_PRIME (43_tx_drainer.md). -/

namespace Sys2Proof.Machine

open Sys2Proof

/-- TX_WR `idx`, `b` (43_tx_drainer.md R99): stores one byte and starts nothing (R108). -/
def execTxWr (idx b : Byte) (s : State) : Host.Outcome State Fault Refusal :=
  if indexLegal idx s then .next (reply resOk none (writeByte .tx (indexOf idx) b s))
  else .next (refuse .index s)

/-- TXC (43_tx_drainer.md R101): one drain step, whether or not a byte is in flight. What the peripheral does before it
sends the event (60_exceptions.md R129) is in `arrive`. -/
def execTxc (s : State) : Host.Outcome State Fault Refusal := .next (drainStep s)

/-- TX_PRIME (43_tx_drainer.md R102): one drain step, at once; no pending flag is kept (92_eei_decisions.md D9). -/
def execTxPrime (s : State) : Host.Outcome State Fault Refusal := .next (drainStep s)

end Sys2Proof.Machine
end

