-- ==== Sys2Proof/Machine/Dispatch.lean ====
section
/-! DEFINITION. The dispatch: one arm per operation of 30_encoding.md R54. -/

namespace Sys2Proof.Machine

open Sys2Proof

/-- Performs an operation's rule, whole and at once (20_memory.md R40). -/
def exec (i : Instr) (s : State) : Host.Outcome State Fault Refusal :=
  match i with
  | .rxb b => Sys2Proof.Machine.execRxb b s
  | .txc => Sys2Proof.Machine.execTxc s
  | .rdyRd => Sys2Proof.Machine.execRdyRd s
  | .rdyClr => Sys2Proof.Machine.execRdyClr s
  | .rxRd idx => Sys2Proof.Machine.execRxRd idx s
  | .txWr idx b => Sys2Proof.Machine.execTxWr idx b s
  | .txPrime => Sys2Proof.Machine.execTxPrime s
  | .encDec v => Sys2Proof.Machine.execEncDec v s
  | .encHex v g => Sys2Proof.Machine.execEncHex v g s
  | .decDec off => Sys2Proof.Machine.execDecDec off s
  | .decHex off => Sys2Proof.Machine.execDecHex off s
  | .rst => Sys2Proof.Machine.execRst s

end Sys2Proof.Machine
end

