-- ==== Sys2Proof/Machine/Serve.lean ====
section
/-! DEFINITION. How words reach the block: which of the words on offer is served next (20_memory.md R40, R41, R47), the
`rst` pin (44_system.md R110), the peripheral's side of a transmit-complete event (60_exceptions.md R129), and the
serving of one word from its issuer (30_encoding.md R56). -/

namespace Sys2Proof.Machine

open Sys2Proof

/-- The issuer of a word is known from the port it came on (30_encoding.md R59, R62; 60_exceptions.md R126). -/
def portIssuer : Port → Issuer
  | .rx => .peripheral
  | .txc => .peripheral
  | .cmd => .host

/-- The first word offered on a port: each port's own order is kept (20_memory.md R41). -/
def firstOn (p : Port) (l : List Offer) : Option Offer := l.find? fun o => o.port == p

/-- Of the words offered in one instant, the one served first: where more than one is on offer, the free value `arb`
picks a port (20_memory.md R47), and that port's first word is served. -/
def chosenOffer (l : List Offer) (n : Nat) : Option Offer :=
  match l with
  | [] => none
  | [o] => some o
  | o :: p :: rest =>
    firstOn ((o :: p :: rest).getD (Config.freeArb n % (o :: p :: rest).length) o).port (o :: p :: rest)

/-- The count of choices after a choice among `l`: none is made where at most one word is on offer. -/
def arbDrawsAfter (l : List Offer) (n : Nat) : Nat := if l.length ≤ 1 then n else n + 1

/-- The words of an instant that are still to be served after `o`. -/
def offersAfter (o : Offer) (l : List Offer) : List Offer := l.erase o

/-- The instants still to come once `o` is taken: an instant with no word left is over. -/
def inputsAfter (o : Offer) (now : Instant) (later : List Instant) : List Instant :=
  if offersAfter o now.offers = [] then later else { now with offers := offersAfter o now.offers } :: later

/-- The state with a word of the instant `now` taken from the inputs. -/
def takeWord (o : Offer) (now : Instant) (later : List Instant) (s : State) : State :=
  { s with
    inputs := inputsAfter o now later
    arbDraws := arbDrawsAfter now.offers s.arbDraws
    served := some (portIssuer o.port) }

/-- The state with an instant passed over: idle, or with its words dropped. -/
def passInstant (later : List Instant) (s : State) : State := { s with inputs := later }

/-- What the next step does. -/
inductive Next where
  /-- no word is offered: the block is idle and loses no state (60_exceptions.md R132) -/
  | idle (s : State)
  /-- the `rst` pin is high (44_system.md R110) -/
  | resetPin (s : State)
  /-- a word is served -/
  | word (o : Offer) (s : State)

/-- What the inputs bring next, with the state once it is taken from them. In an instant with `rst` high the reset wins
and the words of that instant are dropped without effect and without result (44_system.md R110). -/
def fetch (s : State) : Next :=
  match s.inputs with
  | [] => .idle s
  | now :: later =>
    if now.rst then .resetPin (passInstant later s)
    else
      match chosenOffer now.offers s.arbDraws with
      | none => .idle (passInstant later s)
      | some o => .word o (takeWord o now later s)

/-- The outputs of a step that serves no word: none (44_system.md R110: the pin's reset produces no result word). -/
def quiet (s : State) : State := { s with res := none, txOut := none, served := none }

/-- What the peripheral does before its word reaches the block: its transmit-complete event clears `tx_busy`
(60_exceptions.md R129; 10_state.md R27). A word that a test injects is none of the peripheral's (60_exceptions.md R130;
log entry 6). DESIGN CHOICE (log entry 24): `tx_busy` is cleared when the TXC is served, not when its instant begins, so a
TX_PRIME offered in the same instant and served before it finds `tx_busy` still 1 and overruns. The spec does not say. -/
def arrive (o : Offer) (i : Instr) (s : State) : State :=
  if i = .txc ∧ o.injected = false then completeByte s else s

/-- One word served: an illegal word is refused with `ST_ILLEGAL` (30_encoding.md R56; 60_exceptions.md R113), any other
is performed. -/
def serveWord (o : Offer) (s : State) : Host.Outcome State Fault Refusal :=
  match decode (portIssuer o.port) o.word with
  | .error _ => .next (refuse .illegal s)
  | .ok i => exec i (arrive o i s)

/-- The offer that carries a word on its issuer's port: RXB's opcode on the receive port, TXC's on the transmit-complete
port, every other on the host's (30_encoding.md R59, R62). It is the peripheral's own word, not an injected one. -/
def offerOf (w : OpWord) : Offer :=
  { port := if fieldOp w = 0x01 then .rx else if fieldOp w = 0x02 then .txc else .cmd
    word := w
    injected := false }

/-- The state with a word offered, alone, in the very next instant. -/
def offerWord (w : OpWord) (s : State) : State := { s with inputs := ⟨false, [offerOf w]⟩ :: s.inputs }

end Sys2Proof.Machine
end

