-- ==== Sys2Proof/Machine/Step.lean ====
section
/-! DEFINITION. One step of the machine: one word served, or one reset by the pin, or an idle instant (20_memory.md R40;
92_eei_decisions.md D1). -/

namespace Sys2Proof.Machine

open Sys2Proof

/-- One step (20_memory.md R40): the words on offer take effect one at a time, each whole. -/
def step (s : State) : Host.Outcome State Fault Refusal :=
  match fetch s with
  | .idle t => .next (quiet t)
  | .resetPin t => .next (quiet (resetBlock t))
  | .word o t => serveWord o t

/-- `s` with the table's word `w` of `nbits` bits offered in the very next instant, on the port of its issuer. -/
def State.withFetchWord (s : State) (nbits w : Nat) : State := offerWord (BitVec.ofNat 48 (w % 2 ^ nbits)) s

end Sys2Proof.Machine
end

