-- ==== Sys2Proof/Machine/Relation.lean ====
section
/-! DEFINITION. The step relation as 10_state.md R30 asks for it: the capacity, the words that arrive, their order and the
values of `undef` bytes are its parameters, and its state is what the spec calls state and nothing else. The fixed interface
of `step` carries the parameters in `State` (log entries 1, 2); here the two are told apart. -/

namespace Sys2Proof.Machine

open Sys2Proof

/-- What the spec calls state: the five items of the block (10_state.md R13) and the peripheral's bookkeeping (R27). -/
structure SpecState where
  rxBuf : Memory
  rxCur : Nat
  rxReady : Bool
  txBuf : Memory
  txIdx : Nat
  txBusy : Bool
  wireTx : List Byte
  fTxovr : Bool
  deriving DecidableEq, Repr

/-- The parameters of the step relation (10_state.md R30): `CAP`; the words that arrive; and which of the free values stand
for the order of words that arrive together, for the bytes that `undef` reads as, and for the wire after an overrun. -/
structure StepParams where
  cap : Nat
  words : List Instant
  order : Nat
  rxValues : Nat
  txValues : Nat
  wires : Nat
  deriving DecidableEq, Repr

/-- The outputs of a step (30_encoding.md R57: `RES` is an output, not state; R59). -/
structure StepOutput where
  res : Option Res
  txOut : Option Byte
  served : Option Issuer
  deriving DecidableEq, Repr

/-- The spec's state within `s`. -/
def State.spec (s : State) : SpecState :=
  ⟨s.rxBuf, s.rxCur, s.rxReady, s.txBuf, s.txIdx, s.txBusy, s.wireTx, s.fTxovr⟩

/-- The parameters that `s` carries for the next step. -/
def State.params (s : State) : StepParams :=
  ⟨s.cap, s.inputs, s.arbDraws, s.rxDraws, s.txDraws, s.wireDraws⟩

/-- The outputs that `s` shows of the last step. -/
def State.output (s : State) : StepOutput := ⟨s.res, s.txOut, s.served⟩

/-- The state of `step` that carries these parameters, this state of the spec and these outputs. -/
def State.assemble (p : StepParams) (b : SpecState) (o : StepOutput) : State where
  rxBuf := b.rxBuf
  rxCur := b.rxCur
  rxReady := b.rxReady
  txBuf := b.txBuf
  txIdx := b.txIdx
  txBusy := b.txBusy
  wireTx := b.wireTx
  fTxovr := b.fTxovr
  cap := p.cap
  inputs := p.words
  arbDraws := p.order
  rxDraws := p.rxValues
  txDraws := p.txValues
  wireDraws := p.wires
  res := o.res
  txOut := o.txOut
  served := o.served

/-- The step relation (10_state.md R30): with the parameters `p`, a step may go from `b` to `c` with the outputs `o`. No
output of an earlier step stands in it. -/
def StepRel (p : StepParams) (b : SpecState) (o : StepOutput) (c : SpecState) : Prop :=
  ∃ t, step (State.assemble p b ⟨none, none, none⟩) = .next t ∧ t.spec = c ∧ t.output = o

end Sys2Proof.Machine
end

