-- ==== Sys2Proof/Machine/Script.lean ====
section
/-! DEFINITION. Scripts (30_encoding.md R63 to R68): from a script line to operations, the expansion of the
pseudo-instructions, and running a script. A script line is issued by offering its word alone and taking one step. -/

namespace Sys2Proof.Machine

open Sys2Proof

/-- The operation of a script line, none where an operand does not fit its field: an error of the script
(30_encoding.md R63, R64). -/
def assembleOp (o : ScriptOp) : Option Instr :=
  if o.fits then
    some (match o with
      | .rxb b => .rxb (BitVec.ofNat 8 b)
      | .txc => .txc
      | .rdyRd => .rdyRd
      | .rdyClr => .rdyClr
      | .rxRd idx => .rxRd (BitVec.ofNat 8 idx)
      | .txWr idx b => .txWr (BitVec.ofNat 8 idx) (BitVec.ofNat 8 b)
      | .txPrime => .txPrime
      | .encDec v => .encDec (BitVec.ofNat 32 v)
      | .encHex v g => .encHex (BitVec.ofNat 32 v) (decide (g = 1))
      | .decDec off => .decDec (BitVec.ofNat 8 off)
      | .decHex off => .decHex (BitVec.ofNat 8 off)
      | .rst => .rst)
  else none

/-- `FEED "s"`: one RXB per byte, in order (30_encoding.md R65). -/
def expandFeed (text : List Byte) : List Instr := text.map .rxb

/-- `TX_WR i, s[0]`, `TX_WR i+1, s[1]`, ... from index `i`. -/
def writesFrom : Nat → List Byte → List Instr
  | _, [] => []
  | i, b :: bs => .txWr (BitVec.ofNat 8 i) b :: writesFrom (i + 1) bs

/-- `SEND "s"`: the bytes from index 0, the terminator, TX_PRIME; none where the text does not fit (30_encoding.md R66). -/
def expandSend (cap : Nat) (text : List Byte) : Option (List Instr) :=
  if text.length ≤ cap - 1 then some (writesFrom 0 (text ++ [codeTerm]) ++ [.txPrime]) else none

/-- `SENDLN "s"`: `SEND` of `s` followed by CR, LF (30_encoding.md R66). -/
def expandSendln (cap : Nat) (text : List Byte) : Option (List Instr) :=
  expandSend cap (text ++ [codeCr, codeLf])

/-- Where the running of a script stands. -/
structure Ran where
  /-- the state; its inputs are the words that come from elsewhere while the script runs -/
  state : State
  /-- the result words of the script's operations so far, in order -/
  results : List Res
  /-- the polls that WAIT_RDY may still make: before each, how many steps serve the words that come from elsewhere (20_memory.md
  R41: an event may fall between any two host operations; log entry 18) -/
  waits : List Nat
  deriving DecidableEq, Repr

/-- How the running of a script line ends. -/
inductive ScriptEnd where
  /-- the line is done -/
  | done (r : Ran)
  /-- the machine stopped with a fault -/
  | faulted (f : Fault)
  /-- the machine refused an instruction -/
  | refused (f : Refusal)
  /-- the line is an error of the script (30_encoding.md R64, R66) -/
  | scriptError
  /-- a loop of the script has not ended within the rounds it was given: it is still waiting at `r` -/
  | unfinished (r : Ran)
  deriving DecidableEq, Repr

/-- Issues one operation: its word is offered alone and one step is taken. -/
def issue (i : Instr) (r : Ran) : ScriptEnd :=
  match step (offerWord (encode i) r.state) with
  | .next t => .done { r with state := t, results := r.results ++ t.res.toList }
  | .fault f => .faulted f
  | .refused f => .refused f

/-- Goes on with `k` where a line is done. -/
def andThen (e : ScriptEnd) (k : Ran → ScriptEnd) : ScriptEnd :=
  match e with
  | .done r => k r
  | .faulted f => .faulted f
  | .refused f => .refused f
  | .scriptError => .scriptError
  | .unfinished r => .unfinished r

/-- Issues operations one after the other (30_encoding.md R63: a straight list). -/
def issueAll : List Instr → Ran → ScriptEnd
  | [], r => .done r
  | i :: is, r => andThen (issue i r) (issueAll is)

/-- The count in the last result word. -/
def lastLen (s : State) : Option (BitVec 8) := s.res.map (·.len)

/-- The low byte of the last result word's data. -/
def lastByte (s : State) : Option Byte := s.res.map fun r => resByte r 0

/-- `DRAIN`: TXC repeated until one returns `len = 0`, that one included (30_encoding.md R67). -/
def runDrain : Nat → Ran → ScriptEnd
  | 0, r => .unfinished r
  | fuel + 1, r => andThen (issue .txc r) fun q => if lastLen q.state = some 0 then .done q else runDrain fuel q

/-- `n` steps that serve the words that come from elsewhere. Their result words are none of the script's. -/
def runPending : Nat → Ran → ScriptEnd
  | 0, r => .done r
  | n + 1, r =>
    match step r.state with
    | .next t => runPending n { r with state := t }
    | .fault f => .faulted f
    | .refused f => .refused f

/-- `WAIT_RDY`: RDY_RD repeated until one returns `data[0] = 1` (30_encoding.md R68). Before each poll the given number of
steps serves the words that come from elsewhere, an RXB that completes the line among them (20_memory.md R40, R41). The spec
gives the wait no bound (70_reset_and_hazards.md R151): it is unfinished where the given polls are used up (log entry 18). -/
def runWaitRdy : List Nat → Ran → ScriptEnd
  | [], r => .unfinished { r with waits := [] }
  | n :: ns, r =>
    andThen (runPending n r) fun p => andThen (issue .rdyRd p) fun q =>
      if lastByte q.state = some 1 then .done { q with waits := ns } else runWaitRdy ns q

/-- The reads of `READ_LINE` from index `i`, `fuel` bytes before the end of the buffer: until one returns 0x00 or index
`CAP - 1` has been read (30_encoding.md R68). -/
def runReads : Nat → Nat → Ran → ScriptEnd
  | 0, _, r => .done r
  | fuel + 1, i, r =>
    andThen (issue (.rxRd (BitVec.ofNat 8 i)) r) fun q =>
      if lastByte q.state = some codeTerm then .done q else runReads fuel (i + 1) q

/-- `READ_LINE`: the reads, then RDY_CLR (30_encoding.md R68). -/
def runReadLine (r : Ran) : ScriptEnd := andThen (runReads r.state.cap 0 r) (issue .rdyClr)

/-- Runs one script line. `DRAIN` is given `CAP + 1` rounds, which are enough (30_encoding.md R67). -/
def runItem (item : ScriptItem) (r : Ran) : ScriptEnd :=
  match item with
  | .op o =>
    match assembleOp o with
    | some i => issue i r
    | none => .scriptError
  | .feed text => issueAll (expandFeed text) r
  | .send text =>
    match expandSend r.state.cap text with
    | some is => issueAll is r
    | none => .scriptError
  | .sendln text =>
    match expandSendln r.state.cap text with
    | some is => issueAll is r
    | none => .scriptError
  | .drain => runDrain (r.state.cap + 1) r
  | .waitRdy => runWaitRdy r.waits r
  | .readLine => runReadLine r

/-- Runs a script from its first line to its last (30_encoding.md R63). -/
def runScript : List ScriptItem → Ran → ScriptEnd
  | [], r => .done r
  | item :: items, r => andThen (runItem item r) (runScript items)

end Sys2Proof.Machine
end

