-- ==== Sys2Proof/Machine/Views.lean ====
section
/-! DEFINITION. Views of the stored state: the document's named states (10_state.md R25, R26), the content of a buffer up
to its sentinel (20_memory.md R50; 42_rx_framer.md R95), the pins of the port binding (30_encoding.md R59), and the
resting state and the end of a run (70_reset_and_hazards.md R153). None is stored. -/

namespace Sys2Proof.Machine

open Sys2Proof

/-! ### The named states -/

/-- RX `Idle`: `rx_cur = 0` (10_state.md R25). -/
def rxIdle (s : State) : Bool := decide (s.rxCur = 0)

/-- RX `Receiving`: `rx_cur > 0` (10_state.md R25). -/
def rxReceiving (s : State) : Bool := decide (0 < s.rxCur)

/-- RX `LineReady`: `rx_ready = 1`, independent of the other two (10_state.md R25). -/
def rxLineReady (s : State) : Bool := s.rxReady

/-- TX `Idle`: `tx_idx = 0` (10_state.md R26). -/
def txIdle (s : State) : Bool := decide (s.txIdx = 0)

/-- TX `Draining`: `tx_idx > 0` (10_state.md R26). -/
def txDraining (s : State) : Bool := decide (0 < s.txIdx)

/-- A resting state: `tx_idx = 0` with `tx_busy = 0` (70_reset_and_hazards.md R153). -/
def resting (s : State) : Bool := txIdle s && !s.txBusy

/-- The list of words is exhausted: no instant to come offers a word (70_reset_and_hazards.md R153). DESIGN CHOICE (log entry
25): an instant to come with the `rst` pin high keeps the run open too, which the spec does not say. -/
def exhausted (s : State) : Bool := s.inputs.all fun now => now.offers.isEmpty && !now.rst

/-- Which model of the peripheral a run belongs to (00_scope.md, glossary; 60_exceptions.md R129). -/
inductive Peripheral where
  /-- the block alone, with any word at any time -/
  | openSystem
  /-- the block with the contract of 60_exceptions.md R127 to R131 -/
  | closedSystem
  deriving DecidableEq, Repr

/-- A run is over: the words are exhausted and, in the closed model, the peripheral owes no transmit-complete event
(70_reset_and_hazards.md R153). -/
def runOver (p : Peripheral) (s : State) : Bool :=
  exhausted s && (decide (p = .openSystem) || !s.txBusy)

/-- The end state of a run (70_reset_and_hazards.md R153): the five items of 10_state.md R13 with `wire_tx` and `f_txovr`. -/
structure RunEnd where
  rxBuf : Memory
  rxCur : Nat
  rxReady : Bool
  txBuf : Memory
  txIdx : Nat
  wireTx : List Byte
  fTxovr : Bool
  deriving DecidableEq, Repr

/-- What a run that stops at `s` leaves; the result words are outputs along the way and no part of it
(70_reset_and_hazards.md R153). -/
def runEnd (s : State) : RunEnd := ⟨s.rxBuf, s.rxCur, s.rxReady, s.txBuf, s.txIdx, s.wireTx, s.fTxovr⟩

/-! ### The content of a buffer -/

/-- The bytes of a content from index `i`, at most `fuel` of them, up to, not including, the first `TERM`; none where
an `undef` byte stands before it. -/
def contentLoop : Nat → Memory → Nat → Option (List Byte)
  | 0, _, _ => some []
  | fuel + 1, m, i =>
    match memGet m i with
    | none => none
    | some c => if c = codeTerm then some [] else (contentLoop fuel m (i + 1)).map fun l => c :: l

/-- The line as the foreground reads it: `rx_buf` from index 0 up to the first 0x00 (42_rx_framer.md R95). -/
def rxLine (s : State) : Option (List Byte) := contentLoop s.cap s.rxBuf 0

/-- The message in `tx_buf`: from index 0 up to the first `TERM`, or all `CAP` bytes if there is none (20_memory.md R50). -/
def txMessage (s : State) : Option (List Byte) := contentLoop s.cap s.txBuf 0

/-! ### The registers and the pins -/

/-- `rx_cur` as the `IDXW` bits of its register (10_state.md R13). -/
def rxCurBits (s : State) : BitVec (Config.idxWidth s.cap) := BitVec.ofNat _ s.rxCur

/-- `tx_idx` as the `IDXW` bits of its register (10_state.md R13). -/
def txIdxBits (s : State) : BitVec (Config.idxWidth s.cap) := BitVec.ofNat _ s.txIdx

/-- The level output `rx_ready` (30_encoding.md R59; 60_exceptions.md R121). -/
def pinRxReady (s : State) : Bool := s.rxReady

/-- `tx_valid`: the last step handed a byte over (30_encoding.md R59). -/
def pinTxValid (s : State) : Bool := s.txOut.isSome

/-- `tx_data`: the byte handed over, while `tx_valid` is high (30_encoding.md R59). -/
def pinTxData (s : State) : Option Byte := s.txOut

/-- `rsp`, with `rsp_valid` high exactly when it is some: the result word of the host's operation. The peripheral's events
have no response path (30_encoding.md R58, R59). -/
def pinRsp (s : State) : Option (BitVec 104) :=
  if s.served = some .host then s.res.map resWord else none

/-- The instant that one cycle of the input pins stands for (30_encoding.md R59): one cycle of `rx_valid` is one RXB, one
cycle of `txc` is one TXC, one cycle of `cmd_valid` is one word of the host. -/
def instantOfPins (rst rxValid : Bool) (rxData : Byte) (txc cmdValid : Bool) (cmd : OpWord) : Instant where
  rst := rst
  offers :=
    (if rxValid then [⟨.rx, encode (.rxb rxData), false⟩] else [])
      ++ (if txc then [⟨.txc, encode .txc, false⟩] else [])
      ++ (if cmdValid then [⟨.cmd, cmd, false⟩] else [])

end Sys2Proof.Machine
end

