-- ==== Sys2Proof/Safety.lean ====
section
/-! DEFINITION. What holds between any two operations (10_state.md R22, R23, R24; 20_memory.md R34; 00_scope.md R8), what a
safe run is, and the closed system's contract (60_exceptions.md R129). -/

namespace Sys2Proof.Machine

open Sys2Proof

/-- The content invariant of `rx_buf`: the bytes below the cursor are defined and none is CR or FF (10_state.md R24). -/
def lineDefined (s : State) : Bool :=
  (List.range s.rxCur).all fun i =>
    match memGet s.rxBuf i with
    | some b => !isLineEnd b
    | none => false

/-- The trailing slot `CAP - 1` of the RX buffer is `undef` (20_memory.md R34; 10_state.md R19). -/
def trailingSlotUndef (s : State) : Bool := decide (memGet s.rxBuf (s.cap - 1) = none)

/-- What holds between any two operations: a legal capacity (00_scope.md R8), the RX invariant (10_state.md R22), the TX
invariant (R23), the buffers in canonical form within the capacity (20_memory.md R31), the content invariant (10_state.md
R24) and the trailing slot (20_memory.md R34). -/
abbrev BlockInv (s : State) : Prop :=
  Config.LegalCap s.cap ∧ s.rxCur ≤ Config.last s.cap ∧ s.txIdx ≤ s.cap ∧
    Memory.wf s.cap s.rxBuf = true ∧ Memory.wf s.cap s.txBuf = true ∧
    lineDefined s = true ∧ trailingSlotUndef s = true

/-- `tx_idx > 0` means that a byte was handed over and its TXC has not yet come (70_reset_and_hazards.md R148). -/
abbrev SendOwed (s : State) : Prop := 0 < s.txIdx → s.txBusy = true

/-- Is an offer one that the closed system admits: every word but a TXC, and a TXC that is the peripheral's own and that
it owes (60_exceptions.md R129; 93_implementation_defined.md U22)? -/
def closedOffer (s : State) (o : Offer) : Bool :=
  match decode (portIssuer o.port) o.word with
  | .ok .txc => s.txBusy && !o.injected
  | _ => true

/-- May the next step happen in the closed system (60_exceptions.md R129)? -/
def closedStep (s : State) : Bool :=
  match fetch s with
  | .idle _ => true
  | .resetPin _ => true
  | .word o t => closedOffer t o

/-- Is a word a TX_PRIME that the usage contract forbids: one with a byte in flight (70_reset_and_hazards.md R148)? -/
def primeTooEarly (s : State) : Bool :=
  match fetch s with
  | .word o t => decide (decode (portIssuer o.port) o.word = .ok .txPrime) && t.txBusy
  | _ => false

/-- What the premise `periph_fair` gives a WAIT_RDY (92_eei_decisions.md D25; 60_exceptions.md R129): after some number of
steps that serve the words that come from elsewhere, a line has completed and the flag is 1. -/
abbrev LineWillComplete (s : State) : Prop :=
  ∃ n r, runPending n ⟨s, [], []⟩ = .done r ∧ r.state.rxReady = true

/-- Performs operations one after the other, stopping where one stops (20_memory.md R40). -/
def execAll : List Instr → State → Host.Outcome State Fault Refusal
  | [], s => .next s
  | i :: is, s =>
    match exec i s with
    | .next t => execAll is t
    | .fault f => .fault f
    | .refused f => .refused f

/-- Serves words one after the other, each offered alone on its issuer's port and served by one step. -/
def serveAll : List OpWord → State → Host.Outcome State Fault Refusal
  | [], s => .next s
  | w :: ws, s =>
    match step (offerWord w s) with
    | .next t => serveAll ws t
    | .fault f => .fault f
    | .refused f => .refused f

/-- The value of a text in a radix: the sum over `k` of the digit at `k` times the radix to the power `n-1-k`
(40_numeric_encode.md R75). A byte that is no digit counts 0. -/
def textValue (base : Nat) (digit : Byte → Option Nat) : List Byte → Nat
  | [] => 0
  | c :: cs => (digit c).getD 0 * base ^ cs.length + textValue base digit cs

/-- The text without its spaces. -/
def withoutSpaces (l : List Byte) : List Byte := l.filter fun c => c != codeSp

/-- The operations on the RX state (20_memory.md R46). -/
def onRxState : Instr → Bool
  | .rxb _ => true
  | .txc => false
  | .rdyRd => true
  | .rdyClr => true
  | .rxRd _ => true
  | .txWr _ _ => false
  | .txPrime => false
  | .encDec _ => false
  | .encHex _ _ => false
  | .decDec _ => true
  | .decHex _ => true
  | .rst => false

/-- The operations on the TX state (20_memory.md R46). -/
def onTxState : Instr → Bool
  | .rxb _ => false
  | .txc => true
  | .rdyRd => false
  | .rdyClr => false
  | .rxRd _ => false
  | .txWr _ _ => true
  | .txPrime => true
  | .encDec _ => false
  | .encHex _ _ => false
  | .decDec _ => false
  | .decHex _ => false
  | .rst => false

/-- The encoders, which touch no state (20_memory.md R46). -/
def onNoState : Instr → Bool
  | .rxb _ => false
  | .txc => false
  | .rdyRd => false
  | .rdyClr => false
  | .rxRd _ => false
  | .txWr _ _ => false
  | .txPrime => false
  | .encDec _ => true
  | .encHex _ _ => true
  | .decDec _ => false
  | .decHex _ => false
  | .rst => false

/-- Two operations that 20_memory.md R46 says commute: one on the RX state and one on the TX state, or an encoder with
any other. -/
def commutePair (a b : Instr) : Bool :=
  (onRxState a && onTxState b) || (onTxState a && onRxState b) || onNoState a || onNoState b

/-- A safe outcome: the machine goes on. -/
def goesOn : Host.Outcome State Fault Refusal → Bool
  | .next _ => true
  | .fault _ => false
  | .refused _ => false

end Sys2Proof.Machine
end

