-- ==== Sys2Proof/Certificates/Slice0/Obligations.lean ====
section
/-! DEFINITION. The statements for the provers. Each cites the rules of spec/ it formalises; what rests on a choice of the
model says so and names the log entry. -/

open Sys2Proof Sys2Proof.Machine

/-! ### Encoding -/

/-- 30_encoding.md R52 to R55, R62: the word of every operation decodes to that operation, with every operand at every
value, and from its issuer it is served as that operation. -/
def Obligations.EncodeThenDecodeGivesTheOperation : Prop :=
  ∀ i : Instr, decodeWord (encode i) = some i ∧ decode i.issuer (encode i) = .ok i

/-- 30_encoding.md R53, R56: a word that decodes is the one word of its operation, so no must-be-zero bit is overlooked. -/
def Obligations.DecodedWordIsTheOperationsOneWord : Prop :=
  ∀ (w : OpWord) (i : Instr), decodeWord w = some i → encode i = w

/-- The words of the examples of 40_numeric_encode.md R72, R73, 41_numeric_decode.md R82, 42_rx_framer.md R87, R93,
43_tx_drainer.md R99, R101 and 44_system.md R109 decode to the operations they stand for. -/
def Obligations.ExampleWordsDecode : Prop :=
  decodeTableWord 48 0x010000000041 = some (.rxb 0x41) ∧
  decodeTableWord 48 0x020000000000 = some .txc ∧
  decodeTableWord 48 0x120200000000 = some (.rxRd 2) ∧
  decodeTableWord 48 0x205000000078 = some (.txWr 80 0x78) ∧
  decodeTableWord 48 0x30000000002A = some (.encDec 42) ∧
  decodeTableWord 48 0x310112345678 = some (.encHex 0x12345678 true) ∧
  decodeTableWord 48 0x320700000000 = some (.decDec 7) ∧
  decodeTableWord 48 0x7F0000000000 = some .rst

/-- 30_encoding.md R54: at most one row matches any word. -/
def Obligations.WordSelectsAtMostOneRow : Prop :=
  ∀ (w : OpWord) (r q : Row), r ∈ rows → q ∈ rows → rowMatches w r = true → rowMatches w q = true →
    r.pattern = q.pattern ∧ r.mask = q.mask

/-- 60_exceptions.md R113: a word that selects no row, or a row of another issuer, is answered with `ST_ILLEGAL` and has
no effect. -/
def Obligations.IllegalWordHasNoEffect : Prop :=
  ∀ (o : Offer) (s : State),
    ((∀ r ∈ rows, rowMatches o.word r = false) ∨
      (∃ i, decodeWord o.word = some i ∧ i.issuer ≠ portIssuer o.port)) →
    serveWord o s = .next { s with res := some ⟨.illegal, 0, 0⟩, txOut := none }

/-! ### A step -/

/-- 20_memory.md R40, 30_encoding.md R56: a step serves the chosen word. A legal word is performed as its operation, after
the peripheral's own TXC has cleared `tx_busy` (60_exceptions.md R129; log entry 6); an illegal one is refused. The word
is taken from the inputs (log entry 2). That a word served before a TXC of its own instant finds `tx_busy` as it was, because
the TXC clears it when it is served, is the model's choice (log entry 24). -/
def Obligations.StepRunsTheDecodedWord : Prop :=
  ∀ (s : State) (now : Instant) (later : List Instant) (o : Offer),
    s.inputs = now :: later → now.rst = false → chosenOffer now.offers s.arbDraws = some o →
    (∀ i, decode (portIssuer o.port) o.word = .ok i →
      step s = exec i { s with
        inputs := inputsAfter o now later
        arbDraws := arbDrawsAfter now.offers s.arbDraws
        served := some (portIssuer o.port)
        txBusy := if i = .txc ∧ o.injected = false then false else s.txBusy }) ∧
    (∀ e, decode (portIssuer o.port) o.word = .error e →
      step s = .next { s with
        inputs := inputsAfter o now later
        arbDraws := arbDrawsAfter now.offers s.arbDraws
        served := some (portIssuer o.port)
        res := some ⟨.illegal, 0, 0⟩
        txOut := none })

/-- 30_encoding.md R51, R62: an operation's word, offered alone, is run by the very next step, whatever the state; the
inputs after it are as before it. `withFetchWord` offers it (log entry 16). -/
def Obligations.OfferedWordRunsNext : Prop :=
  ∀ (s : State) (i : Instr),
    step (s.withFetchWord 48 (encode i).toNat) =
      exec i { s with served := some i.issuer, txBusy := if i = .txc then false else s.txBusy }

/-- 20_memory.md R41, R47: where words are offered in one instant, the step serves one of them, and that one is the first
of its port. Which port is the free value `arb` (log entry 3). -/
def Obligations.StepServesAPortsFirstWord : Prop :=
  ∀ (s : State) (now : Instant) (later : List Instant),
    s.inputs = now :: later → now.rst = false → now.offers ≠ [] →
    ∃ o before after, now.offers = before ++ o :: after ∧ (∀ q ∈ before, q.port ≠ o.port) ∧
      step s = serveWord o { s with
        inputs := if before ++ after = [] then later else ⟨false, before ++ after⟩ :: later
        arbDraws := arbDrawsAfter now.offers s.arbDraws
        served := some (portIssuer o.port) }

/-- 60_exceptions.md R132: the block is idle whenever no word is offered and loses no state while idle. That a step then
answers, with no output, is the model's choice (log entry 10). -/
def Obligations.IdleBlockLosesNoState : Prop :=
  (∀ s : State, s.inputs = [] → step s = .next { s with res := none, txOut := none, served := none }) ∧
  (∀ (s : State) (later : List Instant), s.inputs = ⟨false, []⟩ :: later →
    step s = .next { s with inputs := later, res := none, txOut := none, served := none })

/-- 44_system.md R110: the `rst` pin has the effect of RST without a result word, and drops the words of its instant. That
`tx_busy` stays as it was where a dropped word is a TXC is the model's choice (log entry 11). -/
def Obligations.ResetPinWinsOverTheInstantsWords : Prop :=
  ∀ (s : State) (now : Instant) (later : List Instant), s.inputs = now :: later → now.rst = true →
    step s = .next { s with
      inputs := later
      rxCur := 0
      rxReady := false
      txIdx := 0
      rxBuf := []
      txBuf := []
      res := none
      txOut := none
      served := none }

/-! ### The RX line-framer -/

/-- 42_rx_framer.md R87: RXB appends the byte; a CR or FF is overwritten with the sentinel and ends the line; at the cut
the line is ended behind the byte; otherwise the cursor moves on. Nothing else changes. -/
def Obligations.RxbAppendsEndsOrCutsTheLine : Prop :=
  ∀ (b : Byte) (s : State), s.rxCur < s.cap →
    exec (.rxb b) s = .next
      (if b = 0x0D ∨ b = 0x0C then
        { s with
          rxBuf := memPut (memPut s.rxBuf s.rxCur b) s.rxCur 0x00
          rxReady := true
          rxCur := 0
          res := some ⟨.ok, 0, 0⟩
          txOut := none }
      else if s.rxCur + 1 = s.cap - 2 then
        { s with
          rxBuf := memPut (memPut s.rxBuf s.rxCur b) (s.rxCur + 1) 0x00
          rxReady := true
          rxCur := 0
          res := some ⟨.ok, 0, 0⟩
          txOut := none }
      else
        { s with
          rxBuf := memPut s.rxBuf s.rxCur b
          rxCur := s.rxCur + 1
          res := some ⟨.ok, 0, 0⟩
          txOut := none })

/-- 42_rx_framer.md R87, R88: what every byte of both buffers reads as after RXB. The one byte stored at the cursor is the
sentinel for a CR or FF and the byte received otherwise; at the cut the sentinel goes behind it; every other byte of the
RX buffer and every byte of the TX buffer is as before. -/
def Obligations.RxbStoresAtTheCursorOnly : Prop :=
  ∀ (b : Byte) (s : State), s.rxCur < s.cap →
    ∃ t, exec (.rxb b) s = .next t ∧
      (∀ j, memGet t.rxBuf j =
        if j = s.rxCur then some (if b = 0x0D ∨ b = 0x0C then 0x00 else b)
        else if j = s.rxCur + 1 ∧ ¬ (b = 0x0D ∨ b = 0x0C) ∧ s.rxCur + 1 = s.cap - 2 then some 0x00
        else memGet s.rxBuf j) ∧
      (∀ j, memGet t.txBuf j = memGet s.txBuf j)

/-- The model's choice (log entry 9): RXB with the cursor outside the buffer, which 10_state.md R22 rules out, faults. -/
def Obligations.RxbOutsideTheBufferFaults : Prop :=
  ∀ (b : Byte) (s : State), s.cap ≤ s.rxCur → exec (.rxb b) s = .fault .rxCursorOutside

/-- 42_rx_framer.md R91: RDY_RD returns the flag in `data[0]` and changes nothing; the flag is not cleared. -/
def Obligations.RdyRdReturnsTheFlag : Prop :=
  ∀ s : State, exec .rdyRd s =
    .next { s with res := some ⟨.ok, 0, if s.rxReady then 1 else 0⟩, txOut := none }

/-- 42_rx_framer.md R92: RDY_CLR clears the flag, whatever it was, and touches neither the buffer nor the cursor. -/
def Obligations.RdyClrClearsTheFlag : Prop :=
  ∀ s : State, exec .rdyClr s = .next { s with rxReady := false, res := some ⟨.ok, 0, 0⟩, txOut := none }

/-- 42_rx_framer.md R93, 20_memory.md R35, R38: RX_RD returns the byte written last at the index and changes nothing; a
byte never written reads as an unspecified value, a fresh one at every read (log entry 4). -/
def Obligations.RxRdReturnsTheByte : Prop :=
  ∀ (idx : Byte) (s : State), idx.toNat < s.cap →
    (∀ b, memGet s.rxBuf idx.toNat = some b →
      exec (.rxRd idx) s = .next { s with res := some ⟨.ok, 1, b.zeroExtend 88⟩, txOut := none }) ∧
    (memGet s.rxBuf idx.toNat = none →
      exec (.rxRd idx) s = .next { s with
        rxDraws := s.rxDraws + 1
        res := some ⟨.ok, 1, (Config.freeByte .rx s.rxDraws).zeroExtend 88⟩
        txOut := none })

/-- 60_exceptions.md R114: RX_RD, TX_WR, DEC_DEC and DEC_HEX with an index `>= CAP` answer `ST_INDEX` and have no effect;
the cursor accesses of RXB stay in range, and the drain step tests `tx_idx < CAP` before it reads: at the bound it is the
same whatever the buffer holds. -/
def Obligations.IndexOutOfRangeIsRefused : Prop :=
  (∀ (idx b : Byte) (s : State), s.cap ≤ idx.toNat →
    exec (.rxRd idx) s = .next { s with res := some ⟨.index, 0, 0⟩, txOut := none } ∧
    exec (.txWr idx b) s = .next { s with res := some ⟨.index, 0, 0⟩, txOut := none } ∧
    exec (.decDec idx) s = .next { s with res := some ⟨.index, 0, 0⟩, txOut := none } ∧
    exec (.decHex idx) s = .next { s with res := some ⟨.index, 0, 0⟩, txOut := none }) ∧
  (∀ s : State, BlockInv s → s.rxCur + 1 ≤ s.cap - 2) ∧
  (∀ (i : Instr) (s : State) (m : Memory), i = .txc ∨ i = .txPrime → s.cap ≤ s.txIdx →
    exec i { s with txBuf := m } =
      .next { s with txBuf := m, txIdx := 0, res := some ⟨.ok, 0, 0⟩, txOut := none })

/-- 42_rx_framer.md R87, R92, 44_system.md R109: the transitions of the RX framer. The table is an inference that the spec
marks as its own (R94). -/
def Obligations.RxFramerTransitions : Prop :=
  (∀ (b : Byte) (s : State), 3 ≤ s.cap → s.rxCur ≤ s.cap - 3 →
    ∃ t, exec (.rxb b) s = .next t ∧
      (b = 0x0D ∨ b = 0x0C → rxIdle t = true ∧ t.rxReady = true) ∧
      (¬ (b = 0x0D ∨ b = 0x0C) → s.rxCur + 1 < s.cap - 2 →
        rxReceiving t = true ∧ t.rxCur = s.rxCur + 1 ∧ t.rxReady = s.rxReady) ∧
      (¬ (b = 0x0D ∨ b = 0x0C) → s.rxCur + 1 = s.cap - 2 → rxIdle t = true ∧ t.rxReady = true)) ∧
  (∀ s : State, ∃ t, exec .rdyClr s = .next t ∧ t.rxCur = s.rxCur ∧ t.rxReady = false) ∧
  (∀ s : State, ∃ t, exec .rst s = .next t ∧ rxIdle t = true ∧ t.rxReady = false) ∧
  (∀ (i : Instr) (s t : State), (∀ b, i ≠ .rxb b) → i ≠ .rdyClr → i ≠ .rst → exec i s = .next t →
    t.rxCur = s.rxCur ∧ t.rxReady = s.rxReady) ∧
  (∀ (o : Offer) (s : State) (e : DecodeError), decode (portIssuer o.port) o.word = .error e →
    ∃ t, serveWord o s = .next t ∧ t.rxCur = s.rxCur ∧ t.rxReady = s.rxReady)

/-- 42_rx_framer.md R95: when a line has completed, `rx_buf` holds its bytes and then 0x00, for a line of `n <= CAP - 3`
bytes ended by CR or FF and for a cut line of `CAP - 2` bytes; the foreground reads it up to its first 0x00; the indices
above hold what they held. R95 is an inference that the spec marks as its own, from R87. -/
def Obligations.CompletedLineStandsInTheBuffer : Prop :=
  ∀ (s : State) (l : List Byte) (stop : List Byte), Config.LegalCap s.cap → s.rxCur = 0 →
    (∀ b ∈ l, b ≠ 0x0D ∧ b ≠ 0x0C) →
    (l.length ≤ s.cap - 3 ∧ (stop = [0x0D] ∨ stop = [0x0C]) ∨ l.length = s.cap - 2 ∧ stop = []) →
    ∃ t, execAll ((l ++ stop).map .rxb) s = .next t ∧ t.rxCur = 0 ∧ t.rxReady = true ∧
      (∀ k, k < l.length → memGet t.rxBuf k = l[k]?) ∧
      memGet t.rxBuf l.length = some 0x00 ∧
      (∀ k, l.length < k → memGet t.rxBuf k = memGet s.rxBuf k) ∧
      rxLine t = some (l.takeWhile fun b => b ≠ 0x00) ∧
      t.txBuf = s.txBuf ∧ t.txIdx = s.txIdx ∧ t.txBusy = s.txBusy ∧ t.wireTx = s.wireTx ∧ t.fTxovr = s.fTxovr

/-- 42_rx_framer.md R97, R88: a run of `m` bytes with no CR and no FF, from cursor 0, leaves the cursor at
`m mod (CAP - 2)`, raises the flag when at least one piece is complete, and leaves the bytes of the last, part received
piece at the bottom of the buffer. R97 is an inference that the spec marks as its own, from R87 and R88. -/
def Obligations.OverLongLineIsCutInPieces : Prop :=
  ∀ (s : State) (l : List Byte), Config.LegalCap s.cap → s.rxCur = 0 → (∀ b ∈ l, b ≠ 0x0D ∧ b ≠ 0x0C) →
    ∃ t, execAll (l.map .rxb) s = .next t ∧ t.rxCur = l.length % (s.cap - 2) ∧
      t.rxReady = (s.rxReady || decide (s.cap - 2 ≤ l.length)) ∧
      (∀ k, k < l.length % (s.cap - 2) →
        memGet t.rxBuf k = l[l.length / (s.cap - 2) * (s.cap - 2) + k]?)

/-! ### The TX byte-drainer -/

/-- 43_tx_drainer.md R99, R108: TX_WR stores its byte at its index and does nothing else; every other byte of the TX
buffer and every byte of the RX buffer reads as before. -/
def Obligations.TxWrStoresItsByteOnly : Prop :=
  ∀ (idx b : Byte) (s : State), idx.toNat < s.cap →
    exec (.txWr idx b) s =
      .next { s with txBuf := memPut s.txBuf idx.toNat b, res := some ⟨.ok, 0, 0⟩, txOut := none } ∧
    (∀ j, memGet (memPut s.txBuf idx.toNat b) j = if j = idx.toNat then some b else memGet s.txBuf j)

/-- 43_tx_drainer.md R100, R101, R102, 60_exceptions.md R128: TXC and TX_PRIME over a byte that is not the sentinel hand
it to an idle peripheral and advance the index; nothing else changes. -/
def Obligations.DrainStepSendsTheByte : Prop :=
  ∀ (s : State) (b : Byte), s.txIdx < s.cap → memGet s.txBuf s.txIdx = some b → b ≠ 0x00 →
    s.txBusy = false → s.fTxovr = false →
    (∀ i, i = .txc ∨ i = .txPrime →
      exec i s = .next { s with
        txIdx := s.txIdx + 1
        txBusy := true
        wireTx := s.wireTx ++ [b]
        res := some ⟨.ok, 1, b.zeroExtend 88⟩
        txOut := some b })

/-- 43_tx_drainer.md R100, 60_exceptions.md R128, R130, 70_reset_and_hazards.md R148: a drain step over a byte that is not
the sentinel while a byte is in flight is an overrun: the flag is set, the index advances as always, and the rest of the
block is as before. Of the wire's content nothing is said: it is unspecified from here on (log entry 5). -/
def Obligations.DrainStepWhileBusyOverruns : Prop :=
  ∀ (s : State) (b : Byte), s.txIdx < s.cap → memGet s.txBuf s.txIdx = some b → b ≠ 0x00 → s.txBusy = true →
    (∀ i, i = .txc ∨ i = .txPrime →
      ∃ wire, exec i s = .next { s with
        txIdx := s.txIdx + 1
        fTxovr := true
        wireTx := wire
        wireDraws := s.wireDraws + 1
        res := some ⟨.ok, 1, b.zeroExtend 88⟩
        txOut := some b })

/-- 43_tx_drainer.md R100: a drain step that finds the sentinel sends nothing and puts the index back to 0. -/
def Obligations.DrainStepStopsAtTheSentinel : Prop :=
  ∀ s : State, s.txIdx < s.cap → memGet s.txBuf s.txIdx = some 0x00 →
    (∀ i, i = .txc ∨ i = .txPrime →
      exec i s = .next { s with txIdx := 0, res := some ⟨.ok, 0, 0⟩, txOut := none })

/-- 43_tx_drainer.md R103: in the drain step the bound is tested before the buffer is read, and the buffer is not read
when `tx_idx >= CAP`: the step is the same whatever the buffer holds, and draws no value. -/
def Obligations.DrainStepAtTheBoundReadsNothing : Prop :=
  ∀ (s : State) (m : Memory), s.cap ≤ s.txIdx →
    (∀ i, i = .txc ∨ i = .txPrime →
      exec i { s with txBuf := m } =
        .next { s with txBuf := m, txIdx := 0, res := some ⟨.ok, 0, 0⟩, txOut := none })

/-- 43_tx_drainer.md R100, 20_memory.md R35: a drain step over an `undef` byte reads an unspecified value `v`: it may
transmit any non-zero byte and advance, or read 0x00 and stop (log entry 4). -/
def Obligations.DrainStepOverUndefSendsOrStops : Prop :=
  ∀ s : State, s.txIdx < s.cap → memGet s.txBuf s.txIdx = none →
    (∀ i, i = .txc ∨ i = .txPrime →
      ∃ v t, exec i s = .next t ∧ t.txDraws = s.txDraws + 1 ∧
        t.txBuf = s.txBuf ∧ t.rxBuf = s.rxBuf ∧ t.rxCur = s.rxCur ∧ t.rxReady = s.rxReady ∧
        (v = 0x00 → t.txIdx = 0 ∧ t.txOut = none ∧ t.res = some ⟨.ok, 0, 0⟩ ∧
          t.wireTx = s.wireTx ∧ t.txBusy = s.txBusy ∧ t.fTxovr = s.fTxovr) ∧
        (v ≠ 0x00 → t.txIdx = s.txIdx + 1 ∧ t.txOut = some v ∧ t.res = some ⟨.ok, 1, v.zeroExtend 88⟩ ∧
          t.txBusy = true ∧ t.fTxovr = (s.fTxovr || s.txBusy)))

/-- 43_tx_drainer.md R99, R100, 44_system.md R109: the transitions of the TX drainer. The table is an inference that the
spec marks as its own (R104). -/
def Obligations.TxDrainerTransitions : Prop :=
  (∀ (i : Instr) (s : State) (b : Byte), i = .txc ∨ i = .txPrime → s.txIdx < s.cap →
    memGet s.txBuf s.txIdx = some b → b ≠ 0x00 →
    ∃ t, exec i s = .next t ∧ txDraining t = true ∧ t.txIdx = s.txIdx + 1 ∧ t.txOut = some b) ∧
  (∀ (i : Instr) (s : State), i = .txc ∨ i = .txPrime →
    (s.txIdx < s.cap ∧ memGet s.txBuf s.txIdx = some 0x00 ∨ s.txIdx = s.cap) →
    ∃ t, exec i s = .next t ∧ txIdle t = true ∧ t.txOut = none) ∧
  (∀ (idx b : Byte) (s : State), ∃ t, exec (.txWr idx b) s = .next t ∧ t.txIdx = s.txIdx ∧ t.txOut = none) ∧
  (∀ s : State, ∃ t, exec .rst s = .next t ∧ txIdle t = true ∧ t.txOut = none) ∧
  (∀ (i : Instr) (s t : State), i ≠ .txc → i ≠ .txPrime → i ≠ .rst → exec i s = .next t →
    t.txIdx = s.txIdx ∧ t.txOut = none) ∧
  (∀ (o : Offer) (s : State) (e : DecodeError), decode (portIssuer o.port) o.word = .error e →
    ∃ t, serveWord o s = .next t ∧ t.txIdx = s.txIdx ∧ t.txOut = none)

/-- 43_tx_drainer.md R105, R106, 60_exceptions.md R129: a full drain, one TX_PRIME and one TXC of the peripheral for each
byte, puts exactly the message on the wire, up to the sentinel or, where there is none, to the end of the buffer, returns
to idle, and leaves the message in the buffer. R105 is an inference that the spec marks as its own, from R100.
`serveAll` offers each TXC as the peripheral's own (log entry 16), which clears `tx_busy` (log entry 6). -/
def Obligations.FullDrainSendsTheMessage : Prop :=
  ∀ (s : State) (l : List Byte), l.length ≤ s.cap → (∀ b ∈ l, b ≠ 0x00) →
    (∀ k, k < l.length → memGet s.txBuf k = l[k]?) → (l.length < s.cap → memGet s.txBuf l.length = some 0x00) →
    s.txIdx = 0 → s.txBusy = false → s.fTxovr = false →
    ∃ t, serveAll (encode .txPrime :: List.replicate l.length (encode .txc)) s = .next t ∧
      t.wireTx = s.wireTx ++ l ∧ resting t = true ∧ t.fTxovr = false ∧ t.txBuf = s.txBuf ∧ t.txDraws = s.txDraws ∧
      t.rxBuf = s.rxBuf ∧ t.rxCur = s.rxCur ∧ t.rxReady = s.rxReady ∧ t.inputs = s.inputs ∧ t.cap = s.cap

/-- 30_encoding.md R67: DRAIN always ends, within `CAP + 1` transmit-complete events, with the drainer idle. That it ends
is an inference that the spec marks as its own, from 43_tx_drainer.md R100. -/
def Obligations.DrainScriptAlwaysEnds : Prop :=
  ∀ s : State, ∃ r, runDrain (s.cap + 1) ⟨s, [], []⟩ = .done r ∧ txIdle r.state = true ∧ lastLen r.state = some 0 ∧
    r.results.length ≤ s.cap + 1

/-- 30_encoding.md R66, R67, 43_tx_drainer.md R100, R107, 60_exceptions.md R128, R129: SEND of a text that fits and holds no
NUL, then DRAIN, puts exactly that text on the wire and returns to idle without sending the terminator. What a full drain
sends is an inference that the spec marks as its own (R105). The TXC of DRAIN are offered as the peripheral's own (log entry
16), and so each clears `tx_busy` (log entry 6). -/
def Obligations.SendThenDrainPutsTheTextOnTheWire : Prop :=
  ∀ (s : State) (text : List Byte), Config.LegalCap s.cap → text.length ≤ s.cap - 1 → (∀ b ∈ text, b ≠ 0x00) →
    s.txIdx = 0 → s.txBusy = false → s.fTxovr = false →
    ∃ r, runScript [.send text, .drain] ⟨s, [], []⟩ = .done r ∧
      r.state.wireTx = s.wireTx ++ text ∧ resting r.state = true ∧ r.state.fTxovr = false

/-! ### The converter -/

/-- 40_numeric_encode.md R69: the digit characters, and no lower-case letter in what the encoders produce. -/
def Obligations.DigitCharacters : Prop :=
  (∀ d, d ≤ 9 → (decdigit d).toNat = 0x30 + d) ∧
  (∀ n, n ≤ 9 → (hexdigit n).toNat = 0x30 + n) ∧
  (∀ n, 10 ≤ n → n ≤ 15 → (hexdigit n).toNat = 0x41 + (n - 10)) ∧
  (∀ (v : Value) (c : Byte), c ∈ encodeDecimal v → c.toNat < 0x61) ∧
  (∀ (v : Value) (g : Bool) (c : Byte), c ∈ encodeHex v g → c.toNat < 0x61)

/-- 40_numeric_encode.md R70, R72: ENC_DEC returns the shortest decimal text of its value, most significant digit first,
packed with its terminator and zero fill, and changes nothing. That the text's digits sum to the value is an inference that
the spec marks as its own, from R70 (R75). -/
def Obligations.EncDecReturnsTheShortestDecimalText : Prop :=
  ∀ (v : Value) (s : State), ∃ (text : List Byte) (r : Res),
    exec (.encDec v) s = .next { s with res := some r, txOut := none } ∧ r.st = .ok ∧ r.len.toNat = text.length ∧
    1 ≤ text.length ∧ text.length ≤ 10 ∧ (∀ c ∈ text, 0x30 ≤ c.toNat ∧ c.toNat ≤ 0x39) ∧
    textValue 10 decval text = v.toNat ∧ (text = [0x30] ∨ text.head? ≠ some 0x30) ∧
    (∀ k, k < text.length → some (resByte r k) = text[k]?) ∧
    (∀ k, text.length ≤ k → k ≤ 10 → resByte r k = 0x00)

/-- 40_numeric_encode.md R71, R73: ENC_HEX returns 4 digits for a value up to 0xFFFF, else 8, with a space between
the two groups when grouped, upper case, most significant digit first, packed with its terminator and zero fill, and
changes nothing. That the text's digits sum to the value is an inference that the spec marks as its own, from R71 (R75). -/
def Obligations.EncHexReturnsTheHexadecimalText : Prop :=
  ∀ (v : Value) (g : Bool) (s : State), ∃ (text : List Byte) (r : Res),
    exec (.encHex v g) s = .next { s with res := some r, txOut := none } ∧ r.st = .ok ∧ r.len.toNat = text.length ∧
    text.length = (if v.toNat ≤ 0xFFFF then 4 else if g then 9 else 8) ∧
    (∀ (k : Nat) (c : Byte), text[k]? = some c → (c = 0x20 ↔ text.length = 9 ∧ k = 4)) ∧
    (∀ c ∈ text, c = 0x20 ∨ 0x30 ≤ c.toNat ∧ c.toNat ≤ 0x39 ∨ 0x41 ≤ c.toNat ∧ c.toNat ≤ 0x46) ∧
    textValue 16 hexval (withoutSpaces text) = v.toNat ∧
    (∀ k, k < text.length → some (resByte r k) = text[k]?) ∧
    (∀ k, text.length ≤ k → k ≤ 10 → resByte r k = 0x00)

/-- 40_numeric_encode.md R74: the sizes of the numeric text; with its terminator every result fits the eleven bytes. R74
is an inference that the spec marks as its own, from R70 and R71. -/
def Obligations.NumericTextSizes : Prop :=
  (∀ v : Value, 1 ≤ (encodeDecimal v).length ∧ (encodeDecimal v).length ≤ 10) ∧
  (∀ (v : Value) (g : Bool), v.toNat ≤ 0xFFFF → (encodeHex v g).length = 4) ∧
  (∀ v : Value, 0xFFFF < v.toNat → (encodeHex v false).length = 8 ∧ (encodeHex v true).length = 9) ∧
  (∀ (v : Value) (g : Bool), (encodeDecimal v).length + 1 ≤ Config.txtMax ∧ (encodeHex v g).length + 1 ≤ Config.txtMax)

/-- 41_numeric_decode.md R77: the character values; the letter `x` has no `hexval`, so a text that begins "0x" is
malformed at its second character. -/
def Obligations.CharacterValues : Prop :=
  (∀ (c : Byte) (d : Nat), decval c = some d ↔ d ≤ 9 ∧ c.toNat = 0x30 + d) ∧
  (∀ (c : Byte) (d : Nat), hexval c = some d ↔
    d ≤ 9 ∧ c.toNat = 0x30 + d ∨ 10 ≤ d ∧ d ≤ 15 ∧ (c.toNat + 10 = 0x41 + d ∨ c.toNat + 10 = 0x61 + d)) ∧
  hexval 0x78 = none ∧ ∀ l : List Byte, decodeHex (0x30 :: 0x78 :: l) = ⟨.malformed, 0, 1⟩

/-- 41_numeric_decode.md R78, R79, R84: the decimal decoder is exact. A text of digits below 2^32 gives its value; the
first byte that is no digit is malformed at its position; the first digit that would leave 32 bits overflows at its
position. In both failures the value is 0. -/
def Obligations.DecimalDecodeIsExact : Prop :=
  (∀ l : List Byte, (∀ c ∈ l, (decval c).isSome = true) → textValue 10 decval l < 2 ^ 32 →
    decodeDecimal l = ⟨.ok, textValue 10 decval l, l.length⟩) ∧
  (∀ (l : List Byte) (k : Nat) (c : Byte), l[k]? = some c → (∀ d ∈ l.take k, (decval d).isSome = true) →
    textValue 10 decval (l.take k) < 2 ^ 32 → decval c = none → decodeDecimal l = ⟨.malformed, 0, k⟩) ∧
  (∀ (l : List Byte) (k : Nat) (c : Byte) (d : Nat), l[k]? = some c → (∀ e ∈ l.take k, (decval e).isSome = true) →
    textValue 10 decval (l.take k) < 2 ^ 32 → decval c = some d → 2 ^ 32 ≤ textValue 10 decval (l.take k) * 10 + d →
    decodeDecimal l = ⟨.overflow, 0, k⟩)

/-- 41_numeric_decode.md R79, R80, R84: the hexadecimal decoder is exact. Spaces are skipped and counted; a text of digits
and spaces below 2^32 gives its value; the first other byte is malformed at its position; the first digit reached with the
value at or above 2^28 overflows at its position. In both failures the value is 0. -/
def Obligations.HexDecodeIsExact : Prop :=
  (∀ l : List Byte, (∀ c ∈ withoutSpaces l, (hexval c).isSome = true) →
    textValue 16 hexval (withoutSpaces l) < 2 ^ 32 →
    decodeHex l = ⟨.ok, textValue 16 hexval (withoutSpaces l), l.length⟩) ∧
  (∀ (l : List Byte) (k : Nat) (c : Byte), l[k]? = some c → (∀ d ∈ withoutSpaces (l.take k), (hexval d).isSome = true) →
    textValue 16 hexval (withoutSpaces (l.take k)) < 2 ^ 32 → c ≠ 0x20 → hexval c = none →
    decodeHex l = ⟨.malformed, 0, k⟩) ∧
  (∀ (l : List Byte) (k : Nat) (c : Byte) (d : Nat), l[k]? = some c →
    (∀ e ∈ withoutSpaces (l.take k), (hexval e).isSome = true) →
    2 ^ 28 ≤ textValue 16 hexval (withoutSpaces (l.take k)) → textValue 16 hexval (withoutSpaces (l.take k)) < 2 ^ 32 →
    c ≠ 0x20 → hexval c = some d → decodeHex l = ⟨.overflow, 0, k⟩)

/-- 41_numeric_decode.md R81, R82, R83: DEC_DEC and DEC_HEX decode the text of the RX buffer from their offset up to the
first `TERM`, answer the decoder's status, position and value, and change nothing, whatever the flag is. -/
def Obligations.DecodeReadsTheLineFromItsOffset : Prop :=
  ∀ (off : Byte) (s : State) (l : List Byte), off.toNat < s.cap →
    contentLoop (s.cap - off.toNat) s.rxBuf off.toNat = some l →
    exec (.decDec off) s = .next { s with
      res := some ⟨(decodeDecimal l).st, BitVec.ofNat 8 (decodeDecimal l).pos,
        (BitVec.ofNat 32 (decodeDecimal l).val).zeroExtend 88⟩
      txOut := none } ∧
    exec (.decHex off) s = .next { s with
      res := some ⟨(decodeHex l).st, BitVec.ofNat 8 (decodeHex l).pos,
        (BitVec.ofNat 32 (decodeHex l).val).zeroExtend 88⟩
      txOut := none }

/-- 20_memory.md R35, 41_numeric_decode.md R81, 93_implementation_defined.md U8: a decode always completes, and where the
scan meets `undef` bytes the result is the one that some choice of their values gives; nothing but the count of draws
changes (log entry 4). -/
def Obligations.DecodeOverUndefIsSomeChoiceOfBytes : Prop :=
  ∀ (off : Byte) (s : State), off.toNat < s.cap →
    ∃ (m : Memory) (draws : Nat),
      (∀ j b, memGet s.rxBuf j = some b → memGet m j = some b) ∧ (∀ j, j < s.cap → (memGet m j).isSome = true) ∧
      (∃ l, contentLoop (s.cap - off.toNat) m off.toNat = some l ∧
        exec (.decDec off) s = .next { s with
          rxDraws := draws
          res := some ⟨(decodeDecimal l).st, BitVec.ofNat 8 (decodeDecimal l).pos,
            (BitVec.ofNat 32 (decodeDecimal l).val).zeroExtend 88⟩
          txOut := none } ∧
        exec (.decHex off) s = .next { s with
          rxDraws := draws
          res := some ⟨(decodeHex l).st, BitVec.ofNat 8 (decodeHex l).pos,
            (BitVec.ofNat 32 (decodeHex l).val).zeroExtend 88⟩
          txOut := none })

/-- 41_numeric_decode.md R85: decoding what the encoders produce gives the value back, for every 32-bit value, grouped or
not; the converse does not hold: leading zeros, letter case and spaces are lost. R85 is an inference that the spec marks
as its own, from R70, R71, R78 and R80. -/
def Obligations.EncodedValueDecodesToItself : Prop :=
  (∀ v : Value, decodeDecimal (encodeDecimal v) = ⟨.ok, v.toNat, (encodeDecimal v).length⟩) ∧
  (∀ (v : Value) (g : Bool), decodeHex (encodeHex v g) = ⟨.ok, v.toNat, (encodeHex v g).length⟩) ∧
  (∃ l : List Byte, (decodeDecimal l).st = .ok ∧ encodeDecimal (BitVec.ofNat 32 (decodeDecimal l).val) ≠ l) ∧
  (∃ l : List Byte, (decodeHex l).st = .ok ∧ ∀ g, encodeHex (BitVec.ofNat 32 (decodeHex l).val) g ≠ l)

/-! ### Reset -/

/-- 44_system.md R109, 70_reset_and_hazards.md R135: RST puts the five items of the block to their reset values, from any
state; the peripheral's bookkeeping, the wire and the capacity are not touched. -/
def Obligations.RstResetsTheFiveItems : Prop :=
  ∀ s : State, exec .rst s = .next { s with
    rxCur := 0
    rxReady := false
    txIdx := 0
    rxBuf := []
    txBuf := []
    res := some ⟨.ok, 0, 0⟩
    txOut := none }

/-- 10_state.md R28: the value of every piece of state after reset, by the operation and by the pin; `tx_busy` is not
touched; `f_txovr` is 0 at the start of a run and never cleared. Every buffer byte is `undef`: none is listed. That the pin
leaves `tx_busy` as it was also where its instant offers a TXC is the model's choice (log entry 11). -/
def Obligations.ValuesAfterReset : Prop :=
  (State.reset.rxCur = 0 ∧ State.reset.rxReady = false ∧ State.reset.txIdx = 0 ∧
    (∀ i, memGet State.reset.rxBuf i = none ∧ memGet State.reset.txBuf i = none) ∧ State.reset.fTxovr = false) ∧
  (∀ (s t : State) (now : Instant) (later : List Instant),
    exec .rst s = .next t ∨ (s.inputs = now :: later ∧ now.rst = true ∧ step s = .next t) →
    t.rxCur = 0 ∧ t.rxReady = false ∧ t.txIdx = 0 ∧ (∀ i, memGet t.rxBuf i = none ∧ memGet t.txBuf i = none) ∧
    t.txBusy = s.txBusy) ∧
  (∀ s t : State, s.fTxovr = true → step s = .next t → t.fTxovr = true)

/-! ### What an operation leaves unchanged, and invariants -/

/-- 10_state.md R29: an operation changes nothing outside its `w` and `rw` columns, nor the peripheral's bookkeeping but
through `transmit`, nor what 10_state.md R30 makes a parameter. R29 is an inference that the spec marks as its own, from
the operations' rules. -/
def Obligations.OperationWritesOnlyItsColumns : Prop :=
  ∀ (i : Instr) (s t : State), exec i s = .next t →
    ((∀ b, i ≠ .rxb b) → i ≠ .rst → (∀ j, memGet t.rxBuf j = memGet s.rxBuf j) ∧ t.rxCur = s.rxCur) ∧
    ((∀ b, i ≠ .rxb b) → i ≠ .rdyClr → i ≠ .rst → t.rxReady = s.rxReady) ∧
    ((∀ idx b, i ≠ .txWr idx b) → i ≠ .rst → ∀ j, memGet t.txBuf j = memGet s.txBuf j) ∧
    (i ≠ .txc → i ≠ .txPrime → i ≠ .rst → t.txIdx = s.txIdx) ∧
    (i ≠ .txc → i ≠ .txPrime →
      t.txOut = none ∧ t.txBusy = s.txBusy ∧ t.wireTx = s.wireTx ∧ t.fTxovr = s.fTxovr) ∧
    t.cap = s.cap ∧ t.inputs = s.inputs ∧ t.arbDraws = s.arbDraws ∧ t.served = s.served ∧ t.res.isSome = true

/-- 20_memory.md R46: an operation on the RX state commutes with an operation on the TX state, and an encoder with every
operation, RST included: swapping two such neighbours changes neither the final state nor any result word nor any byte
handed to the peripheral. Pairs inside one set need not: RXB with RX_RD, TX_WR with TXC. R46 is an inference that the spec
marks as its own, from 10_state.md R29. -/
def Obligations.DisjointOperationsCommute : Prop :=
  (∀ (a b : Instr) (s s1 s2 : State), commutePair a b = true → exec a s = .next s1 → exec b s1 = .next s2 →
    ∃ t1 t2, exec b s = .next t1 ∧ exec a t1 = .next t2 ∧ quiet t2 = quiet s2 ∧
      t1.res = s2.res ∧ t2.res = s1.res ∧ t1.txOut = s2.txOut ∧ t2.txOut = s1.txOut) ∧
  (∃ (b idx : Byte) (s s1 s2 t1 t2 : State), exec (.rxb b) s = .next s1 ∧ exec (.rxRd idx) s1 = .next s2 ∧
    exec (.rxRd idx) s = .next t1 ∧ exec (.rxb b) t1 = .next t2 ∧ t1.res ≠ s2.res) ∧
  (∃ (idx b : Byte) (s s1 s2 t1 t2 : State), exec (.txWr idx b) s = .next s1 ∧ exec .txc s1 = .next s2 ∧
    exec .txc s = .next t1 ∧ exec (.txWr idx b) t1 = .next t2 ∧ t1.res ≠ s2.res)

/-- 10_state.md R22, R23: every step keeps the RX invariant and the TX invariant, with the capacity legal, the buffers in
canonical form, the line being received defined and the trailing slot `undef`. R22, R23, R24 and 20_memory.md R34 are
inferences that the spec marks as its own, from 42_rx_framer.md R87 and 43_tx_drainer.md R100. -/
def Obligations.StepKeepsTheInvariant : Prop :=
  ∀ s t : State, BlockInv s → step s = .next t → BlockInv t

/-- 10_state.md R28: the invariant holds after reset. -/
def Obligations.ResetHasTheInvariant : Prop := BlockInv State.reset

/-- 10_state.md R22, 60_exceptions.md R114, 70_reset_and_hazards.md R153: from a state with the invariant every step
answers a next state: the block has no halt and nothing stops it. -/
def Obligations.StepNeverStops : Prop :=
  ∀ s : State, BlockInv s → ∃ t, step s = .next t

/-- 70_reset_and_hazards.md R148: every step keeps that `tx_idx > 0` means that a byte was handed over and its TXC has not
yet come. This is an inference that the spec marks as its own, from 43_tx_drainer.md R100 and 60_exceptions.md R129. That it
holds after every step of an instant that offers a TXC beside other words rests on when the TXC clears `tx_busy`, which is the
model's choice: when it is served (log entry 24). -/
def Obligations.StepKeepsTheOwedTransmitComplete : Prop :=
  ∀ s t : State, SendOwed s → step s = .next t → SendOwed t

/-- 60_exceptions.md R130: the only way to an overrun is a TX_PRIME or a test-issued TXC while a byte is in flight. This is
an inference that the spec marks as its own, from R128 and R129; which TXC is test-issued is log entry 6. That `tx_busy` is
cleared when the TXC is served, so that "in flight" is judged for each word as it is served, also in an instant that offers a
TXC beside other words, is the model's choice (log entry 24). -/
def Obligations.OverrunOnlyByEarlyPrimeOrInjectedTxc : Prop :=
  ∀ s t : State, closedStep s = true → primeTooEarly s = false → s.fTxovr = false → step s = .next t →
    t.fTxovr = false

/-- 10_state.md R13: the cursor and the send index fit the `IDXW` bits of their registers (log entry 8). -/
def Obligations.CursorsFitTheirRegisters : Prop :=
  ∀ s : State, BlockInv s → (rxCurBits s).toNat = s.rxCur ∧ (txIdxBits s).toNat = s.txIdx

/-! ### The result word -/

/-- 30_encoding.md R57: the fields of the result word and the bytes of its data; a value result has the value in
`data[31:0]` and zero above it; and the result word is no state: whatever the outputs of the step before, every operation does the same and sets
its own. -/
def Obligations.ResultWordIsAnOutputWithItsFields : Prop :=
  (∀ r : Res, (resWord r).extractLsb' 96 8 = statusCode r.st ∧ (resWord r).extractLsb' 88 8 = r.len ∧
    (resWord r).extractLsb' 0 88 = r.data ∧
    (∀ k, k ≤ 10 → resByte r k = (resWord r).extractLsb' (8 * k) 8)) ∧
  (∀ (off : Byte) (s t : State) (r : Res), exec (.decDec off) s = .next t ∨ exec (.decHex off) s = .next t →
    t.res = some r → r.data.extractLsb' 32 56 = 0) ∧
  (∀ (off : Byte) (s : State), off.toNat < s.cap →
    (∃ t r, exec (.decDec off) s = .next t ∧ t.res = some r ∧
      (r.data.extractLsb' 0 32).toNat = (decodeDecimal (scanText off.toNat s)).val) ∧
    (∃ t r, exec (.decHex off) s = .next t ∧ t.res = some r ∧
      (r.data.extractLsb' 0 32).toNat = (decodeHex (scanText off.toNat s)).val)) ∧
  (∀ (i : Instr) (s : State) (r : Option Res) (b : Option Byte),
    exec i { s with res := r, txOut := b } = exec i s)

/-- 60_exceptions.md R112: the five status codes, and who raises which. `ST_ILLEGAL` comes from decoding alone, with `len`
and `data` 0; `ST_INDEX` from the operations with an index, with `len` and `data` 0; `ST_OVERFLOW` and `ST_MALFORMED` from
the decoders, with `data` 0. None of them changes any state but the count of free values read (log entry 4). -/
def Obligations.StatusCodesAndWhoRaisesThem : Prop :=
  (statusCode .ok = 0x00 ∧ statusCode .illegal = 0x01 ∧ statusCode .index = 0x02 ∧ statusCode .overflow = 0x03 ∧
    statusCode .malformed = 0x04 ∧ ∀ st, (statusCode st).toNat < 5) ∧
  (∀ (i : Instr) (s t : State) (r : Res), exec i s = .next t → t.res = some r →
    r.st = .ok ∨
    (r.st = .index ∧ i.index?.isSome = true ∧ r.len = 0 ∧ r.data = 0 ∧ t = { s with res := some r, txOut := none }) ∨
    ((r.st = .overflow ∨ r.st = .malformed) ∧ (∃ off, i = .decDec off ∨ i = .decHex off) ∧ r.data = 0 ∧
      t = { s with rxDraws := t.rxDraws, res := some r, txOut := none })) ∧
  (∀ (o : Offer) (s t : State) (r : Res), serveWord o s = .next t → t.res = some r → r.st = .illegal →
    (∃ e, decode (portIssuer o.port) o.word = .error e) ∧ r.len = 0 ∧ r.data = 0 ∧
      t = { s with res := some r, txOut := none })

/-! ### The parameters of a step, waiting, and the end of a run -/

/-- 10_state.md R30: the step is a relation on the spec's state, with the capacity, the words that arrive, their order and the
values of `undef` bytes as parameters. It reads nothing else, an earlier step's outputs included; no step changes the
capacity; a step takes from the words the instant it passes over or words of the first instant, and nothing besides; and no
operation reads the words to come. That the parameters stand in the state of `step` is the model's choice (log entries 1,
2). -/
def Obligations.StepIsARelationWithItsParameters : Prop :=
  (∀ s t : State, step s = .next t → StepRel s.params s.spec t.output t.spec) ∧
  (∀ (s : State) (o : StepOutput) (c : SpecState), StepRel s.params s.spec o c →
    ∃ t, step s = .next t ∧ t.output = o ∧ t.spec = c) ∧
  (∀ s t : State, step s = .next t → t.params.cap = s.params.cap ∧
    (s.params.words = [] ∧ t.params.words = [] ∨
      ∃ now later, s.params.words = now :: later ∧
        (t.params.words = later ∨
          ∃ offers, offers.Sublist now.offers ∧ offers.length < now.offers.length ∧
            t.params.words = ⟨now.rst, offers⟩ :: later))) ∧
  (∀ (i : Instr) (s t : State) (words : List Instant), exec i s = .next t →
    exec i { s with inputs := words } = .next { t with inputs := words })

/-- 30_encoding.md R68, 70_reset_and_hazards.md R151, 92_eei_decisions.md D25: WAIT_RDY returns once a line has completed. It
returns at the first poll that finds the flag 1, and changes nothing else; polled after every step, it returns whenever the
words that come from elsewhere complete a line; and it never returns, however it is polled, if they complete none. How many
of those words are served between two polls is left open, and stands in the schedule (log entry 18). -/
def Obligations.WaitReturnsExactlyWhenALineCompletes : Prop :=
  (∀ (s : State) (n : Nat) (r : Ran), runPending n ⟨s, [], []⟩ = .done r → r.state.rxReady = true →
    runWaitRdy [n] ⟨s, [], []⟩ = .done
      ⟨{ r.state with res := some ⟨.ok, 0, 1⟩, txOut := none, served := some .host }, [⟨.ok, 0, 1⟩], []⟩) ∧
  (∀ s : State, LineWillComplete s →
    ∃ k r, runWaitRdy (0 :: List.replicate k 1) ⟨s, [], []⟩ = .done r ∧ r.state.rxReady = true) ∧
  (∀ s : State, ¬ LineWillComplete s → ∀ (polls : List Nat) (r : Ran), runWaitRdy polls ⟨s, [], []⟩ ≠ .done r)

/-- 70_reset_and_hazards.md R153: a run is over when its list of words is exhausted and, in the closed model, no
transmit-complete event is owed; a run that is over there is over in the open model too; and once the list is exhausted no
step changes the end state, nor what is owed. That a step is taken at all then is the model's choice (log entry 10), and so is
that an instant to come with the `rst` pin high keeps the run open though it offers no word (log entry 25). -/
def Obligations.RunIsOverWhenItsWordsAreExhausted : Prop :=
  (∀ s : State, (runOver .openSystem s = true ↔ ∀ now ∈ s.inputs, now.offers = [] ∧ now.rst = false) ∧
    (runOver .closedSystem s = true ↔ runOver .openSystem s = true ∧ s.txBusy = false)) ∧
  (∀ (p : Peripheral) (s : State), runOver p s = true →
    ∃ t, step s = .next t ∧ runOver p t = true ∧ runEnd t = runEnd s ∧ t.txBusy = s.txBusy)
end

