-- ==== Sys2Proof/Laws/Codec.lean ====
section
/-! SUPPORT. What a span of digit codes gives (41_numeric_decode.md R77). -/

namespace Sys2Proof.Laws

open Sys2Proof Sys2Proof.Machine

/-- Inside its span a code has a value, counted from the span's first. -/
theorem spanValue_inside {first count least : Nat} {c : Byte} (lo : first ≤ c.toNat) (hi : c.toNat < first + count) :
    spanValue first count least c = some (least + (c.toNat - first)) :=
  if_pos ⟨by omega, lo⟩

/-- Outside its span a code has none. -/
theorem spanValue_outside {first count least : Nat} {c : Byte} (h : c.toNat < first ∨ first + count ≤ c.toNat) :
    spanValue first count least c = none :=
  if_neg (by omega)

end Sys2Proof.Laws
end

