-- ==== Sys2Proof/Laws/Decode.lean ====
section
/-! SUPPORT. The laws of the operation word: its fields, and a row's match read field by field. -/

namespace Sys2Proof.Laws

open Sys2Proof

theorem getLsbD_opWord (a b : Byte) (c : Value) (i : Nat) : (opWord a b c).getLsbD i =
    if i < 32 then c.getLsbD i else if i - 32 < 8 then b.getLsbD (i - 32) else a.getLsbD (i - 32 - 8) := by
  unfold opWord
  refine (BitVec.getLsbD_append (x := a ++ b) (y := c)).trans ?_
  refine if_congr Iff.rfl rfl ?_
  exact (BitVec.getLsbD_append (x := a) (y := b))

theorem and_opWord (a b a' b' : Byte) (c c' : Value) :
   opWord a b c &&& opWord a' b' c' = opWord (a &&& a') (b &&& b') (c &&& c') := by
  apply BitVec.eq_of_getLsbD_eq
  intro i hi
  simp only [BitVec.getLsbD_and, getLsbD_opWord]
  split
  · rfl
  · split <;> rfl

@[simp] theorem fieldOp_opWord (a b : Byte) (c : Value) : fieldOp (opWord a b c) = a := by
  unfold fieldOp 
  apply BitVec.eq_of_getLsbD_eq
  intro i hi
  rw [BitVec.getLsbD_extractLsb', getLsbD_opWord, if_neg (by omega), if_neg (by omega),
    show 40 + i - 32 - 8 = i by omega]
  simp [hi]

@[simp] theorem fieldAux_opWord (a b : Byte) (c : Value) : fieldAux (opWord a b c) = b := by
  unfold fieldAux
  apply BitVec.eq_of_getLsbD_eq
  intro i hi
  rw [BitVec.getLsbD_extractLsb', getLsbD_opWord, if_neg (by omega), if_pos (by omega)]
  simp [hi]

@[simp] theorem fieldData_opWord (a b : Byte) (c : Value) : fieldData (opWord a b c) = c := by
  unfold fieldData
  apply BitVec.eq_of_getLsbD_eq
  intro i hi
  rw [BitVec.getLsbD_extractLsb', getLsbD_opWord, if_pos (by omega)]
  simp [hi]

theorem opWord_fields (w : OpWord) : opWord (fieldOp w) (fieldAux w) (fieldData w) = w := by
  apply BitVec.eq_of_getLsbD_eq
  intro i hi
  rw [getLsbD_opWord]
  simp only [fieldOp, fieldAux, fieldData, BitVec.getLsbD_extractLsb']
  split
  · simp [*]
  · split
    · rename_i h1 h2
      simp [h2]; congr 1; omega
    · have : i - 32 - 8 < 8 := by omega
      simp [this]; congr 1; omega

theorem opWord_inj {a b a' b' : Byte} {c c' : Value} : opWord a b c = opWord a' b' c' ↔ a = a' ∧ b = b' ∧ c = c' := by
  constructor
  · intro h
    exact ⟨by simpa [fieldOp_opWord] using congrArg fieldOp h, by simpa [fieldAux_opWord] using congrArg fieldAux h, by simpa [fieldData_opWord] using congrArg fieldData h⟩
  · rintro ⟨rfl,rfl,rfl⟩; rfl

theorem fieldB_eq (w : OpWord) : fieldB w = (fieldData w).setWidth 8 := by
  apply BitVec.eq_of_getLsbD_eq
  intro i hi
  simp only [fieldB, fieldData, BitVec.getLsbD_extractLsb', BitVec.getLsbD_setWidth, hi]
  have : i < 32 := by omega
  simp [this]

theorem fieldG_eq (w : OpWord) : fieldG w = (fieldAux w).getLsbD 0 := by
  simp [fieldG, fieldAux]

theorem rowMatches_opWord (a b : Byte) (c : Value) (r : Row) : rowMatches (opWord a b c) r =
    (a &&& fieldOp r.mask == fieldOp r.pattern && (b &&& fieldAux r.mask == fieldAux r.pattern) && (c &&& fieldData r.mask == fieldData r.pattern)) := by
  unfold rowMatches
  conv_lhs => rw [← opWord_fields r.mask, ← opWord_fields r.pattern, and_opWord]
  rw [Bool.eq_iff_iff]
  simp [opWord_inj, and_assoc]

/-- What a decoded word's issuer check says: the operation is the row's and its issuer the sender. -/
theorem decode_ok_iff {p : Issuer} {w : OpWord} {i : Instr} :
    decode p w = .ok i ↔ decodeWord w = some i ∧ i.issuer = p := by
  unfold decode
  cases h : decodeWord w with
  | none => simp
  | some j =>
    by_cases hj : j.issuer = p
    · simp only [hj, if_true, Except.ok.injEq, Option.some.injEq]
      constructor
      · rintro rfl; exact ⟨rfl, hj⟩
      · exact fun h => h.1
    · simp only [hj, if_false, Option.some.injEq, false_iff, reduceCtorEq]
      rintro ⟨rfl, h⟩; exact hj h

end Sys2Proof.Laws
end

