-- ==== Sys2Proof/Laws/Memory.lean ====
section
/-! SUPPORT. The laws of a buffer's content: a read after a write, and the canonical form that every memory operation
keeps. -/

namespace Sys2Proof.Laws

open Sys2Proof Sys2Proof.Machine

@[simp] theorem memGet_nil (i : Nat) : memGet [] i = none := rfl

@[simp] theorem memGet_memPut_same (m : Memory) (i : Nat) (b : Byte) : memGet (memPut m i b) i = some b := by
  induction m with
  | nil => simp [memPut, memGet]
  | cons c m ih =>
    obtain ⟨a, c⟩ := c
    by_cases h1 : i < a
    · simp [memPut, memGet, h1]
    · by_cases h2 : i = a
      · simp [memPut, memGet, h2]
      · simp [memPut, memGet, h1, h2, ih]

theorem memGet_memPut_other (m : Memory) {i j : Nat} (b : Byte) (h : j ≠ i) :
    memGet (memPut m i b) j = memGet m j := by
  induction m with
  | nil => simp [memPut, memGet, h]
  | cons c m ih =>
    obtain ⟨a, c⟩ := c
    by_cases h1 : i < a
    · simp [memPut, memGet, h1, h]
    · by_cases h2 : i = a
      · subst h2; simp [memPut, memGet, h]
      · simp [memPut, memGet, h1, h2, ih]

/-- A read of a buffer's content after a write, whole. -/
theorem memGet_memPut (m : Memory) (i j : Nat) (b : Byte) :
    memGet (memPut m i b) j = if j = i then some b else memGet m j := by
  by_cases h : j = i
  · subst h; simp
  · simp [h, memGet_memPut_other m b h]

theorem memRising_mono {lo lo' : Nat} {m : Memory} (h : lo' ≤ lo) (hm : memRising lo m = true) :
    memRising lo' m = true := by
  cases m with
  | nil => rfl
  | cons c m =>
    obtain ⟨a, c⟩ := c
    simp only [memRising, Bool.and_eq_true, decide_eq_true_eq] at hm ⊢
    exact ⟨le_trans h hm.1, hm.2⟩

theorem memRising_memPut {lo : Nat} {m : Memory} {i : Nat} (b : Byte) (hi : lo ≤ i) (hm : memRising lo m = true) :
    memRising lo (memPut m i b) = true := by
  induction m generalizing lo with
  | nil => simp [memPut, memRising, hi]
  | cons c m ih =>
    obtain ⟨a, c⟩ := c
    simp only [memRising, Bool.and_eq_true, decide_eq_true_eq] at hm
    by_cases h1 : i < a
    · simp [memPut, memRising, h1, hi, hm.2, Nat.succ_le_of_lt h1]
    · by_cases h2 : i = a
      · subst h2; simp [memPut, memRising, hi, hm.2]
      · have h3 : a + 1 ≤ i := by omega
        simp [memPut, memRising, h1, h2, hm.1, ih h3 hm.2]

theorem mem_memPut {m : Memory} {i : Nat} {b : Byte} {c : Host.Cell} (hc : c ∈ memPut m i b) : c = (i, b) ∨ c ∈ m := by
  induction m with
  | nil => simpa [memPut] using hc
  | cons d m ih =>
    obtain ⟨a, d⟩ := d
    by_cases h1 : i < a
    · simpa [memPut, h1] using hc
    · by_cases h2 : i = a
      · subst h2
        simp only [memPut, lt_irrefl, if_false, if_true, List.mem_cons] at hc
        rcases hc with h | h
        · exact Or.inl h
        · exact Or.inr (List.mem_cons_of_mem _ h)
      · simp only [memPut, h1, h2, if_false, List.mem_cons] at hc
        rcases hc with h | h
        · exact Or.inr (h ▸ List.mem_cons_self)
        · rcases ih h with h | h
          · exact Or.inl h
          · exact Or.inr (List.mem_cons_of_mem _ h)

/-- The empty content, every byte `undef`, has the canonical form. -/
@[simp] theorem wf_nil (cap : Nat) : Memory.wf cap [] = true := rfl

/-- A write below the capacity keeps the canonical form. -/
theorem wf_memPut {cap : Nat} {m : Memory} {i : Nat} (b : Byte) (hi : i < cap) (hm : Memory.wf cap m = true) :
    Memory.wf cap (memPut m i b) = true := by
  simp only [Memory.wf, Bool.and_eq_true, List.all_eq_true, decide_eq_true_eq] at hm ⊢
  refine ⟨memRising_memPut b (Nat.zero_le i) hm.1, fun c hc => ?_⟩
  rcases mem_memPut hc with h | h
  · subst h; exact hi
  · exact hm.2 c h

/-- Every index below the first entry of a rising content is `undef`. -/
theorem memGet_below {lo : Nat} {m : Memory} {i : Nat} (hm : memRising lo m = true) (hi : i < lo) : memGet m i = none := by
  induction m generalizing lo with
  | nil => rfl
  | cons c m ih =>
    obtain ⟨a, c⟩ := c
    simp only [memRising, Bool.and_eq_true, decide_eq_true_eq] at hm
    have h : i ≠ a := by omega
    simpa [memGet, h] using ih hm.2 (by omega)

theorem memGet_mem {m : Memory} {i : Nat} {b : Byte} (h : memGet m i = some b) : (i, b) ∈ m := by
  induction m with
  | nil => simp at h
  | cons c m ih =>
    obtain ⟨a, c⟩ := c
    by_cases h2 : i = a
    · subst h2
      simp only [memGet, if_true, Option.some.injEq] at h
      subst h; exact List.mem_cons_self
    · simp only [memGet, h2, if_false] at h
      exact List.mem_cons_of_mem _ (ih h)

/-- A defined byte of a content in canonical form lies below the capacity. -/
theorem memGet_lt_cap {cap : Nat} {m : Memory} {i : Nat} {b : Byte} (hm : Memory.wf cap m = true)
    (h : memGet m i = some b) : i < cap := by
  simp only [Memory.wf, Bool.and_eq_true, List.all_eq_true, decide_eq_true_eq] at hm
  exact hm.2 _ (memGet_mem h)

theorem eq_of_memGet_eq_rising {lo : Nat} {m n : Memory} (hm : memRising lo m = true) (hn : memRising lo n = true)
    (h : ∀ i, memGet m i = memGet n i) : m = n := by
  induction m generalizing lo n with
  | nil =>
    cases n with
    | nil => rfl
    | cons c n => obtain ⟨a, c⟩ := c; simpa [memGet] using h a
  | cons c m ih =>
    obtain ⟨a, c⟩ := c
    cases n with
    | nil => simpa [memGet] using h a
    | cons d n =>
      obtain ⟨e, d⟩ := d
      simp only [memRising, Bool.and_eq_true, decide_eq_true_eq] at hm hn
      have hae : a = e := by
        rcases Nat.lt_trichotomy a e with hlt | heq | hgt
        · have := h a
          rw [memGet_below (lo := a + 1) (m := (e, d) :: n) (by simp [memRising, hn.2]; omega) (by omega)] at this
          simp [memGet] at this
        · exact heq
        · have := h e
          rw [memGet_below (lo := e + 1) (m := (a, c) :: m) (by simp [memRising, hm.2]; omega) (by omega)] at this
          simp [memGet] at this
      subst hae
      have hcd : c = d := by simpa [memGet] using h a
      subst hcd
      have : m = n := ih hm.2 hn.2 fun i => by
        by_cases hi : i = a
        · subst hi
          rw [memGet_below hm.2 (by omega), memGet_below hn.2 (by omega)]
        · simpa [memGet, hi] using h i
      rw [this]

/-- Two contents in canonical form that read alike at every index are the same data. -/
theorem eq_of_memGet_eq {cap : Nat} {m n : Memory} (hm : Memory.wf cap m = true) (hn : Memory.wf cap n = true)
    (h : ∀ i, memGet m i = memGet n i) : m = n := by
  simp only [Memory.wf, Bool.and_eq_true] at hm hn
  exact eq_of_memGet_eq_rising hm.1 hn.1 h

end Sys2Proof.Laws
end

