-- ==== Sys2Proof/Laws/State.lean ====
section
/-! SUPPORT. One lemma per field per named update of the state, so that no later proof unfolds a record update. -/

namespace Sys2Proof.Laws

open Sys2Proof Sys2Proof.Machine

variable (s : State)

/-! ### setRxCur -/

@[simp] theorem setRxCur_rxBuf (n : Nat) : (setRxCur n s).rxBuf = s.rxBuf := rfl
@[simp] theorem setRxCur_rxCur (n : Nat) : (setRxCur n s).rxCur = n := rfl
@[simp] theorem setRxCur_rxReady (n : Nat) : (setRxCur n s).rxReady = s.rxReady := rfl
@[simp] theorem setRxCur_txBuf (n : Nat) : (setRxCur n s).txBuf = s.txBuf := rfl
@[simp] theorem setRxCur_txIdx (n : Nat) : (setRxCur n s).txIdx = s.txIdx := rfl
@[simp] theorem setRxCur_txBusy (n : Nat) : (setRxCur n s).txBusy = s.txBusy := rfl
@[simp] theorem setRxCur_wireTx (n : Nat) : (setRxCur n s).wireTx = s.wireTx := rfl
@[simp] theorem setRxCur_fTxovr (n : Nat) : (setRxCur n s).fTxovr = s.fTxovr := rfl
@[simp] theorem setRxCur_cap (n : Nat) : (setRxCur n s).cap = s.cap := rfl
@[simp] theorem setRxCur_inputs (n : Nat) : (setRxCur n s).inputs = s.inputs := rfl
@[simp] theorem setRxCur_rxDraws (n : Nat) : (setRxCur n s).rxDraws = s.rxDraws := rfl
@[simp] theorem setRxCur_txDraws (n : Nat) : (setRxCur n s).txDraws = s.txDraws := rfl
@[simp] theorem setRxCur_wireDraws (n : Nat) : (setRxCur n s).wireDraws = s.wireDraws := rfl
@[simp] theorem setRxCur_arbDraws (n : Nat) : (setRxCur n s).arbDraws = s.arbDraws := rfl
@[simp] theorem setRxCur_res (n : Nat) : (setRxCur n s).res = s.res := rfl
@[simp] theorem setRxCur_txOut (n : Nat) : (setRxCur n s).txOut = s.txOut := rfl
@[simp] theorem setRxCur_served (n : Nat) : (setRxCur n s).served = s.served := rfl

/-! ### setTxIdx -/

@[simp] theorem setTxIdx_rxBuf (n : Nat) : (setTxIdx n s).rxBuf = s.rxBuf := rfl
@[simp] theorem setTxIdx_rxCur (n : Nat) : (setTxIdx n s).rxCur = s.rxCur := rfl
@[simp] theorem setTxIdx_rxReady (n : Nat) : (setTxIdx n s).rxReady = s.rxReady := rfl
@[simp] theorem setTxIdx_txBuf (n : Nat) : (setTxIdx n s).txBuf = s.txBuf := rfl
@[simp] theorem setTxIdx_txIdx (n : Nat) : (setTxIdx n s).txIdx = n := rfl
@[simp] theorem setTxIdx_txBusy (n : Nat) : (setTxIdx n s).txBusy = s.txBusy := rfl
@[simp] theorem setTxIdx_wireTx (n : Nat) : (setTxIdx n s).wireTx = s.wireTx := rfl
@[simp] theorem setTxIdx_fTxovr (n : Nat) : (setTxIdx n s).fTxovr = s.fTxovr := rfl
@[simp] theorem setTxIdx_cap (n : Nat) : (setTxIdx n s).cap = s.cap := rfl
@[simp] theorem setTxIdx_inputs (n : Nat) : (setTxIdx n s).inputs = s.inputs := rfl
@[simp] theorem setTxIdx_rxDraws (n : Nat) : (setTxIdx n s).rxDraws = s.rxDraws := rfl
@[simp] theorem setTxIdx_txDraws (n : Nat) : (setTxIdx n s).txDraws = s.txDraws := rfl
@[simp] theorem setTxIdx_wireDraws (n : Nat) : (setTxIdx n s).wireDraws = s.wireDraws := rfl
@[simp] theorem setTxIdx_arbDraws (n : Nat) : (setTxIdx n s).arbDraws = s.arbDraws := rfl
@[simp] theorem setTxIdx_res (n : Nat) : (setTxIdx n s).res = s.res := rfl
@[simp] theorem setTxIdx_txOut (n : Nat) : (setTxIdx n s).txOut = s.txOut := rfl
@[simp] theorem setTxIdx_served (n : Nat) : (setTxIdx n s).served = s.served := rfl

/-! ### raiseReady -/

@[simp] theorem raiseReady_rxBuf : (raiseReady s).rxBuf = s.rxBuf := rfl
@[simp] theorem raiseReady_rxCur : (raiseReady s).rxCur = s.rxCur := rfl
@[simp] theorem raiseReady_rxReady : (raiseReady s).rxReady = true := rfl
@[simp] theorem raiseReady_txBuf : (raiseReady s).txBuf = s.txBuf := rfl
@[simp] theorem raiseReady_txIdx : (raiseReady s).txIdx = s.txIdx := rfl
@[simp] theorem raiseReady_txBusy : (raiseReady s).txBusy = s.txBusy := rfl
@[simp] theorem raiseReady_wireTx : (raiseReady s).wireTx = s.wireTx := rfl
@[simp] theorem raiseReady_fTxovr : (raiseReady s).fTxovr = s.fTxovr := rfl
@[simp] theorem raiseReady_cap : (raiseReady s).cap = s.cap := rfl
@[simp] theorem raiseReady_inputs : (raiseReady s).inputs = s.inputs := rfl
@[simp] theorem raiseReady_rxDraws : (raiseReady s).rxDraws = s.rxDraws := rfl
@[simp] theorem raiseReady_txDraws : (raiseReady s).txDraws = s.txDraws := rfl
@[simp] theorem raiseReady_wireDraws : (raiseReady s).wireDraws = s.wireDraws := rfl
@[simp] theorem raiseReady_arbDraws : (raiseReady s).arbDraws = s.arbDraws := rfl
@[simp] theorem raiseReady_res : (raiseReady s).res = s.res := rfl
@[simp] theorem raiseReady_txOut : (raiseReady s).txOut = s.txOut := rfl
@[simp] theorem raiseReady_served : (raiseReady s).served = s.served := rfl

/-! ### clearReady -/

@[simp] theorem clearReady_rxBuf : (clearReady s).rxBuf = s.rxBuf := rfl
@[simp] theorem clearReady_rxCur : (clearReady s).rxCur = s.rxCur := rfl
@[simp] theorem clearReady_rxReady : (clearReady s).rxReady = false := rfl
@[simp] theorem clearReady_txBuf : (clearReady s).txBuf = s.txBuf := rfl
@[simp] theorem clearReady_txIdx : (clearReady s).txIdx = s.txIdx := rfl
@[simp] theorem clearReady_txBusy : (clearReady s).txBusy = s.txBusy := rfl
@[simp] theorem clearReady_wireTx : (clearReady s).wireTx = s.wireTx := rfl
@[simp] theorem clearReady_fTxovr : (clearReady s).fTxovr = s.fTxovr := rfl
@[simp] theorem clearReady_cap : (clearReady s).cap = s.cap := rfl
@[simp] theorem clearReady_inputs : (clearReady s).inputs = s.inputs := rfl
@[simp] theorem clearReady_rxDraws : (clearReady s).rxDraws = s.rxDraws := rfl
@[simp] theorem clearReady_txDraws : (clearReady s).txDraws = s.txDraws := rfl
@[simp] theorem clearReady_wireDraws : (clearReady s).wireDraws = s.wireDraws := rfl
@[simp] theorem clearReady_arbDraws : (clearReady s).arbDraws = s.arbDraws := rfl
@[simp] theorem clearReady_res : (clearReady s).res = s.res := rfl
@[simp] theorem clearReady_txOut : (clearReady s).txOut = s.txOut := rfl
@[simp] theorem clearReady_served : (clearReady s).served = s.served := rfl

/-! ### completeByte -/

@[simp] theorem completeByte_rxBuf : (completeByte s).rxBuf = s.rxBuf := rfl
@[simp] theorem completeByte_rxCur : (completeByte s).rxCur = s.rxCur := rfl
@[simp] theorem completeByte_rxReady : (completeByte s).rxReady = s.rxReady := rfl
@[simp] theorem completeByte_txBuf : (completeByte s).txBuf = s.txBuf := rfl
@[simp] theorem completeByte_txIdx : (completeByte s).txIdx = s.txIdx := rfl
@[simp] theorem completeByte_txBusy : (completeByte s).txBusy = false := rfl
@[simp] theorem completeByte_wireTx : (completeByte s).wireTx = s.wireTx := rfl
@[simp] theorem completeByte_fTxovr : (completeByte s).fTxovr = s.fTxovr := rfl
@[simp] theorem completeByte_cap : (completeByte s).cap = s.cap := rfl
@[simp] theorem completeByte_inputs : (completeByte s).inputs = s.inputs := rfl
@[simp] theorem completeByte_rxDraws : (completeByte s).rxDraws = s.rxDraws := rfl
@[simp] theorem completeByte_txDraws : (completeByte s).txDraws = s.txDraws := rfl
@[simp] theorem completeByte_wireDraws : (completeByte s).wireDraws = s.wireDraws := rfl
@[simp] theorem completeByte_arbDraws : (completeByte s).arbDraws = s.arbDraws := rfl
@[simp] theorem completeByte_res : (completeByte s).res = s.res := rfl
@[simp] theorem completeByte_txOut : (completeByte s).txOut = s.txOut := rfl
@[simp] theorem completeByte_served : (completeByte s).served = s.served := rfl

/-! ### reply -/

@[simp] theorem reply_rxBuf (r : Res) (tx : Option Byte) : (reply r tx s).rxBuf = s.rxBuf := rfl
@[simp] theorem reply_rxCur (r : Res) (tx : Option Byte) : (reply r tx s).rxCur = s.rxCur := rfl
@[simp] theorem reply_rxReady (r : Res) (tx : Option Byte) : (reply r tx s).rxReady = s.rxReady := rfl
@[simp] theorem reply_txBuf (r : Res) (tx : Option Byte) : (reply r tx s).txBuf = s.txBuf := rfl
@[simp] theorem reply_txIdx (r : Res) (tx : Option Byte) : (reply r tx s).txIdx = s.txIdx := rfl
@[simp] theorem reply_txBusy (r : Res) (tx : Option Byte) : (reply r tx s).txBusy = s.txBusy := rfl
@[simp] theorem reply_wireTx (r : Res) (tx : Option Byte) : (reply r tx s).wireTx = s.wireTx := rfl
@[simp] theorem reply_fTxovr (r : Res) (tx : Option Byte) : (reply r tx s).fTxovr = s.fTxovr := rfl
@[simp] theorem reply_cap (r : Res) (tx : Option Byte) : (reply r tx s).cap = s.cap := rfl
@[simp] theorem reply_inputs (r : Res) (tx : Option Byte) : (reply r tx s).inputs = s.inputs := rfl
@[simp] theorem reply_rxDraws (r : Res) (tx : Option Byte) : (reply r tx s).rxDraws = s.rxDraws := rfl
@[simp] theorem reply_txDraws (r : Res) (tx : Option Byte) : (reply r tx s).txDraws = s.txDraws := rfl
@[simp] theorem reply_wireDraws (r : Res) (tx : Option Byte) : (reply r tx s).wireDraws = s.wireDraws := rfl
@[simp] theorem reply_arbDraws (r : Res) (tx : Option Byte) : (reply r tx s).arbDraws = s.arbDraws := rfl
@[simp] theorem reply_res (r : Res) (tx : Option Byte) : (reply r tx s).res = some r := rfl
@[simp] theorem reply_txOut (r : Res) (tx : Option Byte) : (reply r tx s).txOut = tx := rfl
@[simp] theorem reply_served (r : Res) (tx : Option Byte) : (reply r tx s).served = s.served := rfl

/-! ### refuse -/

@[simp] theorem refuse_rxBuf (st : Status) : (refuse st s).rxBuf = s.rxBuf := rfl
@[simp] theorem refuse_rxCur (st : Status) : (refuse st s).rxCur = s.rxCur := rfl
@[simp] theorem refuse_rxReady (st : Status) : (refuse st s).rxReady = s.rxReady := rfl
@[simp] theorem refuse_txBuf (st : Status) : (refuse st s).txBuf = s.txBuf := rfl
@[simp] theorem refuse_txIdx (st : Status) : (refuse st s).txIdx = s.txIdx := rfl
@[simp] theorem refuse_txBusy (st : Status) : (refuse st s).txBusy = s.txBusy := rfl
@[simp] theorem refuse_wireTx (st : Status) : (refuse st s).wireTx = s.wireTx := rfl
@[simp] theorem refuse_fTxovr (st : Status) : (refuse st s).fTxovr = s.fTxovr := rfl
@[simp] theorem refuse_cap (st : Status) : (refuse st s).cap = s.cap := rfl
@[simp] theorem refuse_inputs (st : Status) : (refuse st s).inputs = s.inputs := rfl
@[simp] theorem refuse_rxDraws (st : Status) : (refuse st s).rxDraws = s.rxDraws := rfl
@[simp] theorem refuse_txDraws (st : Status) : (refuse st s).txDraws = s.txDraws := rfl
@[simp] theorem refuse_wireDraws (st : Status) : (refuse st s).wireDraws = s.wireDraws := rfl
@[simp] theorem refuse_arbDraws (st : Status) : (refuse st s).arbDraws = s.arbDraws := rfl
@[simp] theorem refuse_res (st : Status) : (refuse st s).res = some ⟨st, 0, 0⟩ := rfl
@[simp] theorem refuse_txOut (st : Status) : (refuse st s).txOut = none := rfl
@[simp] theorem refuse_served (st : Status) : (refuse st s).served = s.served := rfl

/-! ### resetBlock -/

@[simp] theorem resetBlock_rxBuf : (resetBlock s).rxBuf = [] := rfl
@[simp] theorem resetBlock_rxCur : (resetBlock s).rxCur = 0 := rfl
@[simp] theorem resetBlock_rxReady : (resetBlock s).rxReady = false := rfl
@[simp] theorem resetBlock_txBuf : (resetBlock s).txBuf = [] := rfl
@[simp] theorem resetBlock_txIdx : (resetBlock s).txIdx = 0 := rfl
@[simp] theorem resetBlock_txBusy : (resetBlock s).txBusy = s.txBusy := rfl
@[simp] theorem resetBlock_wireTx : (resetBlock s).wireTx = s.wireTx := rfl
@[simp] theorem resetBlock_fTxovr : (resetBlock s).fTxovr = s.fTxovr := rfl
@[simp] theorem resetBlock_cap : (resetBlock s).cap = s.cap := rfl
@[simp] theorem resetBlock_inputs : (resetBlock s).inputs = s.inputs := rfl
@[simp] theorem resetBlock_rxDraws : (resetBlock s).rxDraws = s.rxDraws := rfl
@[simp] theorem resetBlock_txDraws : (resetBlock s).txDraws = s.txDraws := rfl
@[simp] theorem resetBlock_wireDraws : (resetBlock s).wireDraws = s.wireDraws := rfl
@[simp] theorem resetBlock_arbDraws : (resetBlock s).arbDraws = s.arbDraws := rfl
@[simp] theorem resetBlock_res : (resetBlock s).res = s.res := rfl
@[simp] theorem resetBlock_txOut : (resetBlock s).txOut = s.txOut := rfl
@[simp] theorem resetBlock_served : (resetBlock s).served = s.served := rfl

/-! ### quiet -/

@[simp] theorem quiet_rxBuf : (quiet s).rxBuf = s.rxBuf := rfl
@[simp] theorem quiet_rxCur : (quiet s).rxCur = s.rxCur := rfl
@[simp] theorem quiet_rxReady : (quiet s).rxReady = s.rxReady := rfl
@[simp] theorem quiet_txBuf : (quiet s).txBuf = s.txBuf := rfl
@[simp] theorem quiet_txIdx : (quiet s).txIdx = s.txIdx := rfl
@[simp] theorem quiet_txBusy : (quiet s).txBusy = s.txBusy := rfl
@[simp] theorem quiet_wireTx : (quiet s).wireTx = s.wireTx := rfl
@[simp] theorem quiet_fTxovr : (quiet s).fTxovr = s.fTxovr := rfl
@[simp] theorem quiet_cap : (quiet s).cap = s.cap := rfl
@[simp] theorem quiet_inputs : (quiet s).inputs = s.inputs := rfl
@[simp] theorem quiet_rxDraws : (quiet s).rxDraws = s.rxDraws := rfl
@[simp] theorem quiet_txDraws : (quiet s).txDraws = s.txDraws := rfl
@[simp] theorem quiet_wireDraws : (quiet s).wireDraws = s.wireDraws := rfl
@[simp] theorem quiet_arbDraws : (quiet s).arbDraws = s.arbDraws := rfl
@[simp] theorem quiet_res : (quiet s).res = none := rfl
@[simp] theorem quiet_txOut : (quiet s).txOut = none := rfl
@[simp] theorem quiet_served : (quiet s).served = none := rfl

/-! ### passInstant -/

@[simp] theorem passInstant_rxBuf (later : List Instant) : (passInstant later s).rxBuf = s.rxBuf := rfl
@[simp] theorem passInstant_rxCur (later : List Instant) : (passInstant later s).rxCur = s.rxCur := rfl
@[simp] theorem passInstant_rxReady (later : List Instant) : (passInstant later s).rxReady = s.rxReady := rfl
@[simp] theorem passInstant_txBuf (later : List Instant) : (passInstant later s).txBuf = s.txBuf := rfl
@[simp] theorem passInstant_txIdx (later : List Instant) : (passInstant later s).txIdx = s.txIdx := rfl
@[simp] theorem passInstant_txBusy (later : List Instant) : (passInstant later s).txBusy = s.txBusy := rfl
@[simp] theorem passInstant_wireTx (later : List Instant) : (passInstant later s).wireTx = s.wireTx := rfl
@[simp] theorem passInstant_fTxovr (later : List Instant) : (passInstant later s).fTxovr = s.fTxovr := rfl
@[simp] theorem passInstant_cap (later : List Instant) : (passInstant later s).cap = s.cap := rfl
@[simp] theorem passInstant_inputs (later : List Instant) : (passInstant later s).inputs = later := rfl
@[simp] theorem passInstant_rxDraws (later : List Instant) : (passInstant later s).rxDraws = s.rxDraws := rfl
@[simp] theorem passInstant_txDraws (later : List Instant) : (passInstant later s).txDraws = s.txDraws := rfl
@[simp] theorem passInstant_wireDraws (later : List Instant) : (passInstant later s).wireDraws = s.wireDraws := rfl
@[simp] theorem passInstant_arbDraws (later : List Instant) : (passInstant later s).arbDraws = s.arbDraws := rfl
@[simp] theorem passInstant_res (later : List Instant) : (passInstant later s).res = s.res := rfl
@[simp] theorem passInstant_txOut (later : List Instant) : (passInstant later s).txOut = s.txOut := rfl
@[simp] theorem passInstant_served (later : List Instant) : (passInstant later s).served = s.served := rfl

/-! ### takeWord -/

@[simp] theorem takeWord_rxBuf (o : Offer) (now : Instant) (later : List Instant) : (takeWord o now later s).rxBuf = s.rxBuf := rfl
@[simp] theorem takeWord_rxCur (o : Offer) (now : Instant) (later : List Instant) : (takeWord o now later s).rxCur = s.rxCur := rfl
@[simp] theorem takeWord_rxReady (o : Offer) (now : Instant) (later : List Instant) : (takeWord o now later s).rxReady = s.rxReady := rfl
@[simp] theorem takeWord_txBuf (o : Offer) (now : Instant) (later : List Instant) : (takeWord o now later s).txBuf = s.txBuf := rfl
@[simp] theorem takeWord_txIdx (o : Offer) (now : Instant) (later : List Instant) : (takeWord o now later s).txIdx = s.txIdx := rfl
@[simp] theorem takeWord_txBusy (o : Offer) (now : Instant) (later : List Instant) : (takeWord o now later s).txBusy = s.txBusy := rfl
@[simp] theorem takeWord_wireTx (o : Offer) (now : Instant) (later : List Instant) : (takeWord o now later s).wireTx = s.wireTx := rfl
@[simp] theorem takeWord_fTxovr (o : Offer) (now : Instant) (later : List Instant) : (takeWord o now later s).fTxovr = s.fTxovr := rfl
@[simp] theorem takeWord_cap (o : Offer) (now : Instant) (later : List Instant) : (takeWord o now later s).cap = s.cap := rfl
@[simp] theorem takeWord_inputs (o : Offer) (now : Instant) (later : List Instant) : (takeWord o now later s).inputs = inputsAfter o now later := rfl
@[simp] theorem takeWord_rxDraws (o : Offer) (now : Instant) (later : List Instant) : (takeWord o now later s).rxDraws = s.rxDraws := rfl
@[simp] theorem takeWord_txDraws (o : Offer) (now : Instant) (later : List Instant) : (takeWord o now later s).txDraws = s.txDraws := rfl
@[simp] theorem takeWord_wireDraws (o : Offer) (now : Instant) (later : List Instant) : (takeWord o now later s).wireDraws = s.wireDraws := rfl
@[simp] theorem takeWord_arbDraws (o : Offer) (now : Instant) (later : List Instant) : (takeWord o now later s).arbDraws = arbDrawsAfter now.offers s.arbDraws := rfl
@[simp] theorem takeWord_res (o : Offer) (now : Instant) (later : List Instant) : (takeWord o now later s).res = s.res := rfl
@[simp] theorem takeWord_txOut (o : Offer) (now : Instant) (later : List Instant) : (takeWord o now later s).txOut = s.txOut := rfl
@[simp] theorem takeWord_served (o : Offer) (now : Instant) (later : List Instant) : (takeWord o now later s).served = some (portIssuer o.port) := rfl

/-! ### offerWord -/

@[simp] theorem offerWord_rxBuf (w : OpWord) : (offerWord w s).rxBuf = s.rxBuf := rfl
@[simp] theorem offerWord_rxCur (w : OpWord) : (offerWord w s).rxCur = s.rxCur := rfl
@[simp] theorem offerWord_rxReady (w : OpWord) : (offerWord w s).rxReady = s.rxReady := rfl
@[simp] theorem offerWord_txBuf (w : OpWord) : (offerWord w s).txBuf = s.txBuf := rfl
@[simp] theorem offerWord_txIdx (w : OpWord) : (offerWord w s).txIdx = s.txIdx := rfl
@[simp] theorem offerWord_txBusy (w : OpWord) : (offerWord w s).txBusy = s.txBusy := rfl
@[simp] theorem offerWord_wireTx (w : OpWord) : (offerWord w s).wireTx = s.wireTx := rfl
@[simp] theorem offerWord_fTxovr (w : OpWord) : (offerWord w s).fTxovr = s.fTxovr := rfl
@[simp] theorem offerWord_cap (w : OpWord) : (offerWord w s).cap = s.cap := rfl
@[simp] theorem offerWord_inputs (w : OpWord) : (offerWord w s).inputs = ⟨false, [offerOf w]⟩ :: s.inputs := rfl
@[simp] theorem offerWord_rxDraws (w : OpWord) : (offerWord w s).rxDraws = s.rxDraws := rfl
@[simp] theorem offerWord_txDraws (w : OpWord) : (offerWord w s).txDraws = s.txDraws := rfl
@[simp] theorem offerWord_wireDraws (w : OpWord) : (offerWord w s).wireDraws = s.wireDraws := rfl
@[simp] theorem offerWord_arbDraws (w : OpWord) : (offerWord w s).arbDraws = s.arbDraws := rfl
@[simp] theorem offerWord_res (w : OpWord) : (offerWord w s).res = s.res := rfl
@[simp] theorem offerWord_txOut (w : OpWord) : (offerWord w s).txOut = s.txOut := rfl
@[simp] theorem offerWord_served (w : OpWord) : (offerWord w s).served = s.served := rfl

/-! ### writeByte rx -/

@[simp] theorem writeByte_rx_rxBuf (i : Nat) (b : Byte) : (writeByte .rx i b s).rxBuf = memPut s.rxBuf i b := rfl
@[simp] theorem writeByte_rx_rxCur (i : Nat) (b : Byte) : (writeByte .rx i b s).rxCur = s.rxCur := rfl
@[simp] theorem writeByte_rx_rxReady (i : Nat) (b : Byte) : (writeByte .rx i b s).rxReady = s.rxReady := rfl
@[simp] theorem writeByte_rx_txBuf (i : Nat) (b : Byte) : (writeByte .rx i b s).txBuf = s.txBuf := rfl
@[simp] theorem writeByte_rx_txIdx (i : Nat) (b : Byte) : (writeByte .rx i b s).txIdx = s.txIdx := rfl
@[simp] theorem writeByte_rx_txBusy (i : Nat) (b : Byte) : (writeByte .rx i b s).txBusy = s.txBusy := rfl
@[simp] theorem writeByte_rx_wireTx (i : Nat) (b : Byte) : (writeByte .rx i b s).wireTx = s.wireTx := rfl
@[simp] theorem writeByte_rx_fTxovr (i : Nat) (b : Byte) : (writeByte .rx i b s).fTxovr = s.fTxovr := rfl
@[simp] theorem writeByte_rx_cap (i : Nat) (b : Byte) : (writeByte .rx i b s).cap = s.cap := rfl
@[simp] theorem writeByte_rx_inputs (i : Nat) (b : Byte) : (writeByte .rx i b s).inputs = s.inputs := rfl
@[simp] theorem writeByte_rx_rxDraws (i : Nat) (b : Byte) : (writeByte .rx i b s).rxDraws = s.rxDraws := rfl
@[simp] theorem writeByte_rx_txDraws (i : Nat) (b : Byte) : (writeByte .rx i b s).txDraws = s.txDraws := rfl
@[simp] theorem writeByte_rx_wireDraws (i : Nat) (b : Byte) : (writeByte .rx i b s).wireDraws = s.wireDraws := rfl
@[simp] theorem writeByte_rx_arbDraws (i : Nat) (b : Byte) : (writeByte .rx i b s).arbDraws = s.arbDraws := rfl
@[simp] theorem writeByte_rx_res (i : Nat) (b : Byte) : (writeByte .rx i b s).res = s.res := rfl
@[simp] theorem writeByte_rx_txOut (i : Nat) (b : Byte) : (writeByte .rx i b s).txOut = s.txOut := rfl
@[simp] theorem writeByte_rx_served (i : Nat) (b : Byte) : (writeByte .rx i b s).served = s.served := rfl

/-! ### writeByte tx -/

@[simp] theorem writeByte_tx_rxBuf (i : Nat) (b : Byte) : (writeByte .tx i b s).rxBuf = s.rxBuf := rfl
@[simp] theorem writeByte_tx_rxCur (i : Nat) (b : Byte) : (writeByte .tx i b s).rxCur = s.rxCur := rfl
@[simp] theorem writeByte_tx_rxReady (i : Nat) (b : Byte) : (writeByte .tx i b s).rxReady = s.rxReady := rfl
@[simp] theorem writeByte_tx_txBuf (i : Nat) (b : Byte) : (writeByte .tx i b s).txBuf = memPut s.txBuf i b := rfl
@[simp] theorem writeByte_tx_txIdx (i : Nat) (b : Byte) : (writeByte .tx i b s).txIdx = s.txIdx := rfl
@[simp] theorem writeByte_tx_txBusy (i : Nat) (b : Byte) : (writeByte .tx i b s).txBusy = s.txBusy := rfl
@[simp] theorem writeByte_tx_wireTx (i : Nat) (b : Byte) : (writeByte .tx i b s).wireTx = s.wireTx := rfl
@[simp] theorem writeByte_tx_fTxovr (i : Nat) (b : Byte) : (writeByte .tx i b s).fTxovr = s.fTxovr := rfl
@[simp] theorem writeByte_tx_cap (i : Nat) (b : Byte) : (writeByte .tx i b s).cap = s.cap := rfl
@[simp] theorem writeByte_tx_inputs (i : Nat) (b : Byte) : (writeByte .tx i b s).inputs = s.inputs := rfl
@[simp] theorem writeByte_tx_rxDraws (i : Nat) (b : Byte) : (writeByte .tx i b s).rxDraws = s.rxDraws := rfl
@[simp] theorem writeByte_tx_txDraws (i : Nat) (b : Byte) : (writeByte .tx i b s).txDraws = s.txDraws := rfl
@[simp] theorem writeByte_tx_wireDraws (i : Nat) (b : Byte) : (writeByte .tx i b s).wireDraws = s.wireDraws := rfl
@[simp] theorem writeByte_tx_arbDraws (i : Nat) (b : Byte) : (writeByte .tx i b s).arbDraws = s.arbDraws := rfl
@[simp] theorem writeByte_tx_res (i : Nat) (b : Byte) : (writeByte .tx i b s).res = s.res := rfl
@[simp] theorem writeByte_tx_txOut (i : Nat) (b : Byte) : (writeByte .tx i b s).txOut = s.txOut := rfl
@[simp] theorem writeByte_tx_served (i : Nat) (b : Byte) : (writeByte .tx i b s).served = s.served := rfl

/-! ### setDraws rx -/

@[simp] theorem setDraws_rx_rxBuf (n : Nat) : (setDraws .rx n s).rxBuf = s.rxBuf := rfl
@[simp] theorem setDraws_rx_rxCur (n : Nat) : (setDraws .rx n s).rxCur = s.rxCur := rfl
@[simp] theorem setDraws_rx_rxReady (n : Nat) : (setDraws .rx n s).rxReady = s.rxReady := rfl
@[simp] theorem setDraws_rx_txBuf (n : Nat) : (setDraws .rx n s).txBuf = s.txBuf := rfl
@[simp] theorem setDraws_rx_txIdx (n : Nat) : (setDraws .rx n s).txIdx = s.txIdx := rfl
@[simp] theorem setDraws_rx_txBusy (n : Nat) : (setDraws .rx n s).txBusy = s.txBusy := rfl
@[simp] theorem setDraws_rx_wireTx (n : Nat) : (setDraws .rx n s).wireTx = s.wireTx := rfl
@[simp] theorem setDraws_rx_fTxovr (n : Nat) : (setDraws .rx n s).fTxovr = s.fTxovr := rfl
@[simp] theorem setDraws_rx_cap (n : Nat) : (setDraws .rx n s).cap = s.cap := rfl
@[simp] theorem setDraws_rx_inputs (n : Nat) : (setDraws .rx n s).inputs = s.inputs := rfl
@[simp] theorem setDraws_rx_rxDraws (n : Nat) : (setDraws .rx n s).rxDraws = n := rfl
@[simp] theorem setDraws_rx_txDraws (n : Nat) : (setDraws .rx n s).txDraws = s.txDraws := rfl
@[simp] theorem setDraws_rx_wireDraws (n : Nat) : (setDraws .rx n s).wireDraws = s.wireDraws := rfl
@[simp] theorem setDraws_rx_arbDraws (n : Nat) : (setDraws .rx n s).arbDraws = s.arbDraws := rfl
@[simp] theorem setDraws_rx_res (n : Nat) : (setDraws .rx n s).res = s.res := rfl
@[simp] theorem setDraws_rx_txOut (n : Nat) : (setDraws .rx n s).txOut = s.txOut := rfl
@[simp] theorem setDraws_rx_served (n : Nat) : (setDraws .rx n s).served = s.served := rfl

/-! ### setDraws tx -/

@[simp] theorem setDraws_tx_rxBuf (n : Nat) : (setDraws .tx n s).rxBuf = s.rxBuf := rfl
@[simp] theorem setDraws_tx_rxCur (n : Nat) : (setDraws .tx n s).rxCur = s.rxCur := rfl
@[simp] theorem setDraws_tx_rxReady (n : Nat) : (setDraws .tx n s).rxReady = s.rxReady := rfl
@[simp] theorem setDraws_tx_txBuf (n : Nat) : (setDraws .tx n s).txBuf = s.txBuf := rfl
@[simp] theorem setDraws_tx_txIdx (n : Nat) : (setDraws .tx n s).txIdx = s.txIdx := rfl
@[simp] theorem setDraws_tx_txBusy (n : Nat) : (setDraws .tx n s).txBusy = s.txBusy := rfl
@[simp] theorem setDraws_tx_wireTx (n : Nat) : (setDraws .tx n s).wireTx = s.wireTx := rfl
@[simp] theorem setDraws_tx_fTxovr (n : Nat) : (setDraws .tx n s).fTxovr = s.fTxovr := rfl
@[simp] theorem setDraws_tx_cap (n : Nat) : (setDraws .tx n s).cap = s.cap := rfl
@[simp] theorem setDraws_tx_inputs (n : Nat) : (setDraws .tx n s).inputs = s.inputs := rfl
@[simp] theorem setDraws_tx_rxDraws (n : Nat) : (setDraws .tx n s).rxDraws = s.rxDraws := rfl
@[simp] theorem setDraws_tx_txDraws (n : Nat) : (setDraws .tx n s).txDraws = n := rfl
@[simp] theorem setDraws_tx_wireDraws (n : Nat) : (setDraws .tx n s).wireDraws = s.wireDraws := rfl
@[simp] theorem setDraws_tx_arbDraws (n : Nat) : (setDraws .tx n s).arbDraws = s.arbDraws := rfl
@[simp] theorem setDraws_tx_res (n : Nat) : (setDraws .tx n s).res = s.res := rfl
@[simp] theorem setDraws_tx_txOut (n : Nat) : (setDraws .tx n s).txOut = s.txOut := rfl
@[simp] theorem setDraws_tx_served (n : Nat) : (setDraws .tx n s).served = s.served := rfl

/-! ### transmit: what it leaves alone, and its busy flag -/

@[simp] theorem transmit_rxBuf (b : Byte) : (transmit b s).rxBuf = s.rxBuf := by
  unfold transmit; split
  · rfl
  · split <;> rfl
@[simp] theorem transmit_rxCur (b : Byte) : (transmit b s).rxCur = s.rxCur := by
  unfold transmit; split
  · rfl
  · split <;> rfl
@[simp] theorem transmit_rxReady (b : Byte) : (transmit b s).rxReady = s.rxReady := by
  unfold transmit; split
  · rfl
  · split <;> rfl
@[simp] theorem transmit_txBuf (b : Byte) : (transmit b s).txBuf = s.txBuf := by
  unfold transmit; split
  · rfl
  · split <;> rfl
@[simp] theorem transmit_txIdx (b : Byte) : (transmit b s).txIdx = s.txIdx := by
  unfold transmit; split
  · rfl
  · split <;> rfl
@[simp] theorem transmit_cap (b : Byte) : (transmit b s).cap = s.cap := by
  unfold transmit; split
  · rfl
  · split <;> rfl
@[simp] theorem transmit_inputs (b : Byte) : (transmit b s).inputs = s.inputs := by
  unfold transmit; split
  · rfl
  · split <;> rfl
@[simp] theorem transmit_rxDraws (b : Byte) : (transmit b s).rxDraws = s.rxDraws := by
  unfold transmit; split
  · rfl
  · split <;> rfl
@[simp] theorem transmit_txDraws (b : Byte) : (transmit b s).txDraws = s.txDraws := by
  unfold transmit; split
  · rfl
  · split <;> rfl
@[simp] theorem transmit_arbDraws (b : Byte) : (transmit b s).arbDraws = s.arbDraws := by
  unfold transmit; split
  · rfl
  · split <;> rfl
@[simp] theorem transmit_res (b : Byte) : (transmit b s).res = s.res := by
  unfold transmit; split
  · rfl
  · split <;> rfl
@[simp] theorem transmit_txOut (b : Byte) : (transmit b s).txOut = s.txOut := by
  unfold transmit; split
  · rfl
  · split <;> rfl
@[simp] theorem transmit_served (b : Byte) : (transmit b s).served = s.served := by
  unfold transmit; split
  · rfl
  · split <;> rfl
@[simp] theorem transmit_txBusy (b : Byte) : (transmit b s).txBusy = true := by
  unfold transmit; split
  · assumption
  · split <;> rfl
@[simp] theorem transmit_fTxovr (b : Byte) : (transmit b s).fTxovr = (s.fTxovr || s.txBusy) := by
  unfold transmit; split
  · simp [*]
  · split <;> simp [*]

/-! ### afterRead and afterScan: what they leave alone -/

@[simp] theorem afterRead_rxBuf (sp : Space) (i : Nat) : (afterRead sp i s).rxBuf = s.rxBuf := by
  unfold afterRead; split
  · rfl
  · cases sp <;> rfl
@[simp] theorem afterRead_rxCur (sp : Space) (i : Nat) : (afterRead sp i s).rxCur = s.rxCur := by
  unfold afterRead; split
  · rfl
  · cases sp <;> rfl
@[simp] theorem afterRead_rxReady (sp : Space) (i : Nat) : (afterRead sp i s).rxReady = s.rxReady := by
  unfold afterRead; split
  · rfl
  · cases sp <;> rfl
@[simp] theorem afterRead_txBuf (sp : Space) (i : Nat) : (afterRead sp i s).txBuf = s.txBuf := by
  unfold afterRead; split
  · rfl
  · cases sp <;> rfl
@[simp] theorem afterRead_txIdx (sp : Space) (i : Nat) : (afterRead sp i s).txIdx = s.txIdx := by
  unfold afterRead; split
  · rfl
  · cases sp <;> rfl
@[simp] theorem afterRead_txBusy (sp : Space) (i : Nat) : (afterRead sp i s).txBusy = s.txBusy := by
  unfold afterRead; split
  · rfl
  · cases sp <;> rfl
@[simp] theorem afterRead_wireTx (sp : Space) (i : Nat) : (afterRead sp i s).wireTx = s.wireTx := by
  unfold afterRead; split
  · rfl
  · cases sp <;> rfl
@[simp] theorem afterRead_fTxovr (sp : Space) (i : Nat) : (afterRead sp i s).fTxovr = s.fTxovr := by
  unfold afterRead; split
  · rfl
  · cases sp <;> rfl
@[simp] theorem afterRead_cap (sp : Space) (i : Nat) : (afterRead sp i s).cap = s.cap := by
  unfold afterRead; split
  · rfl
  · cases sp <;> rfl
@[simp] theorem afterRead_inputs (sp : Space) (i : Nat) : (afterRead sp i s).inputs = s.inputs := by
  unfold afterRead; split
  · rfl
  · cases sp <;> rfl
@[simp] theorem afterRead_wireDraws (sp : Space) (i : Nat) : (afterRead sp i s).wireDraws = s.wireDraws := by
  unfold afterRead; split
  · rfl
  · cases sp <;> rfl
@[simp] theorem afterRead_arbDraws (sp : Space) (i : Nat) : (afterRead sp i s).arbDraws = s.arbDraws := by
  unfold afterRead; split
  · rfl
  · cases sp <;> rfl
@[simp] theorem afterRead_res (sp : Space) (i : Nat) : (afterRead sp i s).res = s.res := by
  unfold afterRead; split
  · rfl
  · cases sp <;> rfl
@[simp] theorem afterRead_txOut (sp : Space) (i : Nat) : (afterRead sp i s).txOut = s.txOut := by
  unfold afterRead; split
  · rfl
  · cases sp <;> rfl
@[simp] theorem afterRead_served (sp : Space) (i : Nat) : (afterRead sp i s).served = s.served := by
  unfold afterRead; split
  · rfl
  · cases sp <;> rfl
@[simp] theorem afterRead_tx_rxDraws (i : Nat) : (afterRead .tx i s).rxDraws = s.rxDraws := by
  unfold afterRead; split <;> rfl
@[simp] theorem afterRead_rx_txDraws (i : Nat) : (afterRead .rx i s).txDraws = s.txDraws := by
  unfold afterRead; split <;> rfl
@[simp] theorem afterScan_rxBuf (off : Nat) : (afterScan off s).rxBuf = s.rxBuf := rfl
@[simp] theorem afterScan_rxCur (off : Nat) : (afterScan off s).rxCur = s.rxCur := rfl
@[simp] theorem afterScan_rxReady (off : Nat) : (afterScan off s).rxReady = s.rxReady := rfl
@[simp] theorem afterScan_txBuf (off : Nat) : (afterScan off s).txBuf = s.txBuf := rfl
@[simp] theorem afterScan_txIdx (off : Nat) : (afterScan off s).txIdx = s.txIdx := rfl
@[simp] theorem afterScan_txBusy (off : Nat) : (afterScan off s).txBusy = s.txBusy := rfl
@[simp] theorem afterScan_wireTx (off : Nat) : (afterScan off s).wireTx = s.wireTx := rfl
@[simp] theorem afterScan_fTxovr (off : Nat) : (afterScan off s).fTxovr = s.fTxovr := rfl
@[simp] theorem afterScan_cap (off : Nat) : (afterScan off s).cap = s.cap := rfl
@[simp] theorem afterScan_inputs (off : Nat) : (afterScan off s).inputs = s.inputs := rfl
@[simp] theorem afterScan_txDraws (off : Nat) : (afterScan off s).txDraws = s.txDraws := rfl
@[simp] theorem afterScan_wireDraws (off : Nat) : (afterScan off s).wireDraws = s.wireDraws := rfl
@[simp] theorem afterScan_arbDraws (off : Nat) : (afterScan off s).arbDraws = s.arbDraws := rfl
@[simp] theorem afterScan_res (off : Nat) : (afterScan off s).res = s.res := rfl
@[simp] theorem afterScan_txOut (off : Nat) : (afterScan off s).txOut = s.txOut := rfl
@[simp] theorem afterScan_served (off : Nat) : (afterScan off s).served = s.served := rfl

end Sys2Proof.Laws
end

