-- ==== Sys2Proof/Laws/Ops.lean ====
section
/-! SUPPORT. One lemma per shared operation that says once everything it can do; later proofs cite it and do not unfold
the operation. -/

namespace Sys2Proof.Laws

open Sys2Proof Sys2Proof.Machine

/-! ### Reading a byte -/

theorem readByte_defined {sp : Space} {i : Nat} {s : State} {b : Byte} (h : memGet (spaceBuf s sp) i = some b) :
    readByte sp i s = b ∧ afterRead sp i s = s := by
  simp [readByte, afterRead, h]

theorem readByte_undef {sp : Space} {i : Nat} {s : State} (h : memGet (spaceBuf s sp) i = none) :
    readByte sp i s = Config.freeByte sp (spaceDraws s sp) ∧ afterRead sp i s = setDraws sp (spaceDraws s sp + 1) s := by
  simp [readByte, afterRead, h]

/-! ### transmit -/

/-- Everything `transmit` can do: an overrun, a hand-over after one, or a byte on the wire. -/
theorem transmit_cases (b : Byte) (s : State) :
    (s.txBusy = true ∧ transmit b s =
      { s with fTxovr := true, wireTx := Config.freeWire s.wireDraws, wireDraws := s.wireDraws + 1 }) ∨
    (s.txBusy = false ∧ s.fTxovr = true ∧ transmit b s =
      { s with txBusy := true, wireTx := Config.freeWire s.wireDraws, wireDraws := s.wireDraws + 1 }) ∨
    (s.txBusy = false ∧ s.fTxovr = false ∧ transmit b s = { s with txBusy := true, wireTx := s.wireTx ++ [b] }) := by
  unfold transmit
  cases hb : s.txBusy <;> cases ho : s.fTxovr <;> simp

/-! ### The drain step -/

/-- Everything the drain step can do: a byte goes out, the sentinel is found, or the bound is hit. -/
theorem drainStep_cases (s : State) :
    (s.txIdx < s.cap ∧ readByte .tx s.txIdx s ≠ codeTerm ∧ drainStep s =
      reply (resOfByte (readByte .tx s.txIdx s)) (some (readByte .tx s.txIdx s))
        (setTxIdx (s.txIdx + 1) (transmit (readByte .tx s.txIdx s) (afterRead .tx s.txIdx s)))) ∨
    (s.txIdx < s.cap ∧ readByte .tx s.txIdx s = codeTerm ∧ drainStep s =
      reply resOk none (setTxIdx 0 (afterRead .tx s.txIdx s))) ∨
    (s.cap ≤ s.txIdx ∧ drainStep s = reply resOk none (setTxIdx 0 s)) := by
  unfold drainStep
  by_cases h : s.txIdx < s.cap
  · by_cases hb : readByte .tx s.txIdx s = codeTerm
    · exact Or.inr (Or.inl ⟨h, hb, by rw [if_pos h, if_neg (by simp [hb])]⟩)
    · exact Or.inl ⟨h, hb, by rw [if_pos h, if_pos hb]⟩
  · exact Or.inr (Or.inr ⟨Nat.le_of_not_lt h, by rw [if_neg h]⟩)

/-- The fields that a drain step leaves alone (10_state.md R29). -/
theorem drainStep_frame (s : State) :
    (drainStep s).rxBuf = s.rxBuf ∧ (drainStep s).rxCur = s.rxCur ∧ (drainStep s).rxReady = s.rxReady ∧
    (drainStep s).txBuf = s.txBuf ∧ (drainStep s).cap = s.cap ∧ (drainStep s).inputs = s.inputs ∧
    (drainStep s).rxDraws = s.rxDraws ∧ (drainStep s).arbDraws = s.arbDraws ∧ (drainStep s).served = s.served := by
  rcases drainStep_cases s with ⟨-, -, h⟩ | ⟨-, -, h⟩ | ⟨-, h⟩ <;> rw [h] <;> simp

/-- Where the send index goes in a drain step (43_tx_drainer.md R104). -/
theorem drainStep_txIdx (s : State) :
    (drainStep s).txIdx = s.txIdx + 1 ∧ s.txIdx < s.cap ∨ (drainStep s).txIdx = 0 := by
  rcases drainStep_cases s with ⟨h1, -, h⟩ | ⟨-, -, h⟩ | ⟨-, h⟩ <;> rw [h] <;> simp [*]

/-! ### RXB -/

/-- Everything RXB can do to the block: a line ends, a line is cut, or a byte is stored. -/
theorem frameByte_cases (b : Byte) (s : State) :
    (isLineEnd b = true ∧ frameByte b s = completeLine s.rxCur (writeByte .rx s.rxCur b s)) ∨
    (isLineEnd b = false ∧ s.rxCur + 1 = Config.cut s.cap ∧
      frameByte b s = completeLine (s.rxCur + 1) (writeByte .rx s.rxCur b s)) ∨
    (isLineEnd b = false ∧ s.rxCur + 1 ≠ Config.cut s.cap ∧
      frameByte b s = setRxCur (s.rxCur + 1) (writeByte .rx s.rxCur b s)) := by
  unfold frameByte
  cases hb : isLineEnd b
  · by_cases hc : s.rxCur + 1 = Config.cut s.cap <;> simp [hc]
  · simp

/-- The fields that RXB leaves alone (10_state.md R29). -/
theorem frameByte_frame (b : Byte) (s : State) :
    (frameByte b s).txBuf = s.txBuf ∧ (frameByte b s).txIdx = s.txIdx ∧ (frameByte b s).txBusy = s.txBusy ∧
    (frameByte b s).wireTx = s.wireTx ∧ (frameByte b s).fTxovr = s.fTxovr ∧ (frameByte b s).cap = s.cap ∧
    (frameByte b s).inputs = s.inputs ∧ (frameByte b s).rxDraws = s.rxDraws ∧ (frameByte b s).txDraws = s.txDraws ∧
    (frameByte b s).wireDraws = s.wireDraws ∧ (frameByte b s).arbDraws = s.arbDraws ∧
    (frameByte b s).served = s.served := by
  rcases frameByte_cases b s with ⟨-, h⟩ | ⟨-, -, h⟩ | ⟨-, -, h⟩ <;> rw [h] <;> simp [completeLine]

/-! ### The scan -/

/-- The text before the scan only stands in front of what it finds. -/
theorem scanLoop_acc (fuel : Nat) (m : Memory) (i d : Nat) (acc : List Byte) :
    scanLoop fuel m i d acc = (acc ++ (scanLoop fuel m i d []).1, (scanLoop fuel m i d []).2) := by
  induction fuel generalizing i d acc with
  | zero => simp [scanLoop]
  | succ fuel ih =>
    simp only [scanLoop]
    split
    · split
      · simp
      · rw [ih, ih (acc := [] ++ _)]; simp
    · split
      · simp
      · rw [ih, ih (acc := [] ++ _)]; simp

/-- A scan over defined bytes finds the content up to the sentinel and draws nothing. -/
theorem scanLoop_content {fuel : Nat} {m : Memory} {i d : Nat} {l : List Byte} (h : contentLoop fuel m i = some l) :
    scanLoop fuel m i d [] = (l, d) := by
  induction fuel generalizing i l with
  | zero => simp [contentLoop] at h; simp [scanLoop, h]
  | succ fuel ih =>
    simp only [contentLoop] at h
    simp only [scanLoop]
    split at h
    · simp at h
    · rename_i c hc
      simp only [hc]
      split at h
      · rename_i ht; simp at h; simp [ht, h]
      · rename_i ht
        obtain ⟨l', hl', rfl⟩ := Option.map_eq_some_iff.mp h
        rw [if_neg ht, scanLoop_acc, ih hl']; simp

/-! ### Taking the next word -/

theorem firstOn_mem {p : Port} {l : List Offer} {o : Offer} (h : firstOn p l = some o) : o ∈ l :=
  List.mem_of_find?_eq_some h

/-- A word that is served was on offer. -/
theorem chosenOffer_mem {l : List Offer} {n : Nat} {o : Offer} (h : chosenOffer l n = some o) : o ∈ l := by
  unfold chosenOffer at h
  split at h
  · simp at h
  · simp at h; simp [h]
  · exact firstOn_mem h

/-- Where any word is on offer, one is served. -/
theorem chosenOffer_some {l : List Offer} {n : Nat} (h : l ≠ []) : ∃ o, chosenOffer l n = some o := by
  unfold chosenOffer
  split
  · simp at h
  · exact ⟨_, rfl⟩
  · rename_i o p rest
    have hlt : Config.freeArb n % (o :: p :: rest).length < (o :: p :: rest).length := Nat.mod_lt _ (by simp)
    cases hf : firstOn ((o :: p :: rest).getD (Config.freeArb n % (o :: p :: rest).length) o).port (o :: p :: rest) with
    | some q => exact ⟨q, rfl⟩
    | none =>
      exfalso
      rw [firstOn, List.find?_eq_none] at hf
      rw [List.getD_eq_getElem _ _ hlt] at hf
      exact hf _ (List.getElem_mem hlt) (by simp)

/-- Everything a step can begin with: idle, the pin, or a word. -/
theorem fetch_cases (s : State) :
    (s.inputs = [] ∧ fetch s = .idle s) ∨
    (∃ now later, s.inputs = now :: later ∧ now.rst = true ∧ fetch s = .resetPin (passInstant later s)) ∨
    (∃ now later, s.inputs = now :: later ∧ now.rst = false ∧ now.offers = [] ∧
      fetch s = .idle (passInstant later s)) ∨
    (∃ now later o, s.inputs = now :: later ∧ now.rst = false ∧ chosenOffer now.offers s.arbDraws = some o ∧
      fetch s = .word o (takeWord o now later s)) := by
  unfold fetch
  cases hi : s.inputs with
  | nil => exact Or.inl ⟨rfl, rfl⟩
  | cons now later =>
    cases hr : now.rst with
    | true => exact Or.inr (Or.inl ⟨now, later, rfl, hr, by simp [hr]⟩)
    | false =>
      cases hc : chosenOffer now.offers s.arbDraws with
      | none =>
        have : now.offers = [] := by
          by_contra hne
          obtain ⟨o, ho⟩ := chosenOffer_some (n := s.arbDraws) hne
          rw [ho] at hc; simp at hc
        exact Or.inr (Or.inr (Or.inl ⟨now, later, rfl, hr, this, by simp [hr, hc]⟩))
      | some o => exact Or.inr (Or.inr (Or.inr ⟨now, later, o, rfl, hr, hc, by simp [hr, hc]⟩))

/-- Everything the serving of a word can do: `ST_ILLEGAL`, or the operation's rule. -/
theorem serveWord_cases (o : Offer) (s : State) :
    (∃ e, decode (portIssuer o.port) o.word = .error e ∧ serveWord o s = .next (refuse .illegal s)) ∨
    (∃ i, decode (portIssuer o.port) o.word = .ok i ∧ serveWord o s = exec i (arrive o i s)) := by
  unfold serveWord
  cases h : decode (portIssuer o.port) o.word with
  | error e => exact Or.inl ⟨e, rfl, rfl⟩
  | ok i => exact Or.inr ⟨i, rfl, rfl⟩

theorem arrive_cases (o : Offer) (i : Instr) (s : State) :
    (i = .txc ∧ o.injected = false ∧ arrive o i s = completeByte s) ∨
    (¬ (i = .txc ∧ o.injected = false) ∧ arrive o i s = s) := by
  unfold arrive
  by_cases h : i = .txc ∧ o.injected = false
  · exact Or.inl ⟨h.1, h.2, if_pos h⟩
  · exact Or.inr ⟨h, if_neg h⟩

/-! ### What an operation can answer -/

/-- Everything an operation can answer: RXB outside the buffer faults, every other one goes on. -/
theorem exec_cases (i : Instr) (s : State) :
    (∃ t, exec i s = .next t) ∨ (∃ b, i = .rxb b ∧ s.cap ≤ s.rxCur ∧ exec i s = .fault .rxCursorOutside) := by
  cases i with
  | rxb b =>
    by_cases h : s.rxCur < s.cap
    · exact Or.inl ⟨_, by simp only [exec, execRxb, if_pos h]; rfl⟩
    · exact Or.inr ⟨b, rfl, Nat.le_of_not_lt h, by simp only [exec, execRxb, if_neg h]⟩
  | txc => exact Or.inl ⟨_, rfl⟩
  | rdyRd => exact Or.inl ⟨_, rfl⟩
  | rdyClr => exact Or.inl ⟨_, rfl⟩
  | rxRd idx =>
    left; simp only [exec, execRxRd]; split <;> exact ⟨_, rfl⟩
  | txWr idx b =>
    left; simp only [exec, execTxWr]; split <;> exact ⟨_, rfl⟩
  | txPrime => exact Or.inl ⟨_, rfl⟩
  | encDec v => exact Or.inl ⟨_, rfl⟩
  | encHex v g => exact Or.inl ⟨_, rfl⟩
  | decDec off =>
    left; simp only [exec, execDecDec]; split <;> exact ⟨_, rfl⟩
  | decHex off =>
    left; simp only [exec, execDecHex]; split <;> exact ⟨_, rfl⟩
  | rst => exact Or.inl ⟨_, rfl⟩

end Sys2Proof.Laws
end

