-- ==== Sys2Proof/Laws/PerInstr.lean ====
section
/-! SUPPORT. The family OpcodeGroup: each operation's word carries the opcode that 30_encoding.md R54 gives it, and the
high nibble 0x0 is the peripheral's (R54, R62). -/

namespace Sys2Proof.Laws

open Sys2Proof

/-- The opcode of each operation (30_encoding.md R54). -/
def opcodeOf : Instr → Byte
  | .rxb _ => 0x01
  | .txc => 0x02
  | .rdyRd => 0x10
  | .rdyClr => 0x11
  | .rxRd _ => 0x12
  | .txWr _ _ => 0x20
  | .txPrime => 0x21
  | .encDec _ => 0x30
  | .encHex _ _ => 0x31
  | .decDec _ => 0x32
  | .decHex _ => 0x33
  | .rst => 0x7F

/-- The word's opcode is the table's, and the high nibble 0x0 is the peripheral's group (30_encoding.md R54). -/
def OpcodeGroup.Statement (i : Instr) : Prop :=
  fieldOp (encode i) = opcodeOf i ∧ (i.issuer = .peripheral ↔ (opcodeOf i).extractLsb' 4 4 = 0)

theorem OpcodeGroup.rxb (b : Byte) : OpcodeGroup.Statement (.rxb b) :=
  ⟨fieldOp_opWord _ _ _, by simp [Instr.issuer, opcodeOf]⟩

theorem OpcodeGroup.txc : OpcodeGroup.Statement (.txc) :=
  ⟨fieldOp_opWord _ _ _, by simp [Instr.issuer, opcodeOf]⟩

theorem OpcodeGroup.rdyRd : OpcodeGroup.Statement (.rdyRd) :=
  ⟨fieldOp_opWord _ _ _, by simp [Instr.issuer, opcodeOf]⟩

theorem OpcodeGroup.rdyClr : OpcodeGroup.Statement (.rdyClr) :=
  ⟨fieldOp_opWord _ _ _, by simp [Instr.issuer, opcodeOf]⟩

theorem OpcodeGroup.rxRd (idx : Byte) : OpcodeGroup.Statement (.rxRd idx) :=
  ⟨fieldOp_opWord _ _ _, by simp [Instr.issuer, opcodeOf]⟩

theorem OpcodeGroup.txWr (idx b : Byte) : OpcodeGroup.Statement (.txWr idx b) :=
  ⟨fieldOp_opWord _ _ _, by simp [Instr.issuer, opcodeOf]⟩

theorem OpcodeGroup.txPrime : OpcodeGroup.Statement (.txPrime) :=
  ⟨fieldOp_opWord _ _ _, by simp [Instr.issuer, opcodeOf]⟩

theorem OpcodeGroup.encDec (v : Value) : OpcodeGroup.Statement (.encDec v) :=
  ⟨fieldOp_opWord _ _ _, by simp [Instr.issuer, opcodeOf]⟩

theorem OpcodeGroup.encHex (v : Value) (g : Bool) : OpcodeGroup.Statement (.encHex v g) :=
  ⟨fieldOp_opWord _ _ _, by simp [Instr.issuer, opcodeOf]⟩

theorem OpcodeGroup.decDec (off : Byte) : OpcodeGroup.Statement (.decDec off) :=
  ⟨fieldOp_opWord _ _ _, by simp [Instr.issuer, opcodeOf]⟩

theorem OpcodeGroup.decHex (off : Byte) : OpcodeGroup.Statement (.decHex off) :=
  ⟨fieldOp_opWord _ _ _, by simp [Instr.issuer, opcodeOf]⟩

theorem OpcodeGroup.rst : OpcodeGroup.Statement (.rst) :=
  ⟨fieldOp_opWord _ _ _, by simp [Instr.issuer, opcodeOf]⟩

end Sys2Proof.Laws
end

