-- ==== Sys2Proof/Laws/Relation.lean ====
section
/-! SUPPORT. The state of `step` is the parameters, the spec's state and the outputs, and nothing besides. -/

namespace Sys2Proof.Laws

open Sys2Proof Sys2Proof.Machine

variable (p : StepParams) (b : SpecState) (o : StepOutput) (s : State)

@[simp] theorem assemble_params : (State.assemble p b o).params = p := rfl
@[simp] theorem assemble_spec : (State.assemble p b o).spec = b := rfl
@[simp] theorem assemble_output : (State.assemble p b o).output = o := rfl
@[simp] theorem assemble_parts : State.assemble s.params s.spec s.output = s := rfl

end Sys2Proof.Laws
end

