-- ==== Sys2Proof/Laws/Script.lean ====
section
/-! SUPPORT. What issuing an operation and serving pending words can do. -/

namespace Sys2Proof.Laws

open Sys2Proof Sys2Proof.Machine

/-- Going on after a line that is done. -/
@[simp] theorem andThen_done (r : Ran) (k : Ran → ScriptEnd) : andThen (.done r) k = k r := rfl

/-- A line that goes on was done, and what follows it ends as the whole does. -/
theorem andThen_eq_done {e : ScriptEnd} {k : Ran → ScriptEnd} {q : Ran} (h : andThen e k = .done q) :
    ∃ r, e = .done r ∧ k r = .done q := by
  cases e <;> simp_all [andThen]

/-- An operation that is issued and done took one step, and its result word comes after those before. -/
theorem issue_eq_done {i : Instr} {r q : Ran} (h : issue i r = .done q) :
    ∃ t, step (offerWord (encode i) r.state) = .next t ∧
      q = { r with state := t, results := r.results ++ t.res.toList } := by
  unfold issue at h
  split at h <;> simp_all

@[simp] theorem runPending_zero (r : Ran) : runPending 0 r = .done r := rfl

/-- Serving pending words that goes on takes a step first. -/
theorem runPending_succ_eq_done {n : Nat} {r q : Ran} (h : runPending (n + 1) r = .done q) :
    ∃ t, step r.state = .next t ∧ runPending n { r with state := t } = .done q := by
  unfold runPending at h
  split at h <;> simp_all

/-- Serving pending words gives the script no result word and uses up no poll. -/
theorem runPending_frame {n : Nat} {r q : Ran} (h : runPending n r = .done q) :
    q.results = r.results ∧ q.waits = r.waits := by
  induction n generalizing r with
  | zero => simp_all
  | succ n ih =>
    obtain ⟨t, -, ht⟩ := runPending_succ_eq_done h
    have := ih ht
    exact this

end Sys2Proof.Laws
end

