-- ==== Sys2Proof/Machine/ScriptText.lean ====
section
/-! DEFINITION. The text of a script (30_encoding.md R63, R64): one operation per line, the mnemonic in capitals, operands
separated by commas, `;` starts a comment, blank lines are ignored; decimal, hexadecimal, character and string literals. -/

namespace Sys2Proof.Machine

open Sys2Proof

/-- The tokens of a script line. -/
inductive Token where
  /-- a mnemonic -/
  | word (l : List Char)
  /-- a number, or a character standing for its code -/
  | num (n : Nat)
  /-- a string, its bytes -/
  | str (l : List Byte)
  /-- a comma -/
  | comma
  deriving DecidableEq, Repr

/-- The byte that a character stands for: its ASCII code (00_scope.md R12). -/
def charByte (c : Char) : Option Byte := if c.toNat < 128 then some (BitVec.ofNat 8 c.toNat) else none

/-- The byte of an escape, after its backslash (30_encoding.md R64); `quote` is the one quote that may be escaped. -/
def escapeByte (quote : Char) (c : Char) : Option Byte :=
  if c = '0' then some 0x00
  else if c = 'a' then some 0x07
  else if c = 'n' then some 0x0A
  else if c = 'f' then some 0x0C
  else if c = 'r' then some 0x0D
  else if c = '\\' then some 0x5C
  else if c = quote then charByte quote
  else none

/-- The escape of a character literal; `'\''` is 0x27 (30_encoding.md R64). -/
def charEscape (c : Char) : Option Byte := escapeByte '\'' c

/-- The escape of a string: the same escapes and `\"` 0x22 (30_encoding.md R64). -/
def strEscape (c : Char) : Option Byte :=
  match charEscape c with
  | some b => some b
  | none => escapeByte '"' c

/-- A character literal after its opening quote: its byte and the rest of the line. -/
def lexChar : List Char → Option (Byte × List Char)
  | '\\' :: c :: '\'' :: rest => (charEscape c).map fun b => (b, rest)
  | c :: '\'' :: rest => if c = '\'' ∨ c = '\\' then none else (charByte c).map fun b => (b, rest)
  | _ => none

/-- A string after its opening quote: its bytes and the rest of the line. -/
def lexStr : List Char → List Byte → Option (List Byte × List Char)
  | [], _ => none
  | '"' :: rest, acc => some (acc, rest)
  | '\\' :: c :: rest, acc =>
    match strEscape c with
    | some b => lexStr rest (acc ++ [b])
    | none => none
  | c :: rest, acc =>
    match charByte c with
    | some b => lexStr rest (acc ++ [b])
    | none => none

/-- The number of a list of digits read after `acc`, in a radix whose digits have the values `digit` gives them; none at
the first character that is no digit (41_numeric_decode.md R77 gives the values; 30_encoding.md R64). -/
def numberFrom (digit : Byte → Option Nat) (radix : Nat) : Nat → List Char → Option Nat
  | acc, [] => some acc
  | acc, c :: cs =>
    match (charByte c).bind digit with
    | some d => numberFrom digit radix (radix * acc + d) cs
    | none => none

/-- A number literal: hexadecimal with `0x` and at least one digit, else decimal (30_encoding.md R64). -/
def literalOf : List Char → Option Nat
  | '0' :: 'x' :: d :: ds => numberFrom hexval 16 0 (d :: ds)
  | d :: ds => numberFrom decval 10 0 (d :: ds)
  | [] => none

/-- May the character stand in a mnemonic: a capital or an underscore? -/
def isNameChar (c : Char) : Bool := c.isUpper || c == '_'

/-- The tokens of a line, up to its comment; each round takes at least one character, so `fuel` is the line's length. -/
def lexLine : Nat → List Char → Option (List Token)
  | _, [] => some []
  | 0, _ :: _ => none
  | fuel + 1, c :: cs =>
    if c = ' ' ∨ c = '\t' then lexLine fuel cs
    else if c = ';' then some []
    else if c = ',' then (lexLine fuel cs).map fun l => .comma :: l
    else if c = '\'' then
      match lexChar cs with
      | some (b, rest) => (lexLine fuel rest).map fun l => .num b.toNat :: l
      | none => none
    else if c = '"' then
      match lexStr cs [] with
      | some (bytes, rest) => (lexLine fuel rest).map fun l => .str bytes :: l
      | none => none
    else if c.isDigit then
      match literalOf (c :: cs.takeWhile Char.isAlphanum) with
      | some n => (lexLine fuel (cs.dropWhile Char.isAlphanum)).map fun l => .num n :: l
      | none => none
    else if isNameChar c then
      (lexLine fuel (cs.dropWhile isNameChar)).map fun l => .word (c :: cs.takeWhile isNameChar) :: l
    else none

/-- The script line of a line's tokens: none where it is an error of the script, some none where it is blank. The order
of operands is that of R63's table. -/
def itemOf (tokens : List Token) : Option (Option ScriptItem) :=
  match tokens with
  | [] => some none
  | .word m :: operands =>
    if m = ['R', 'X', 'B'] then
      match operands with | [.num b] => some (some (.op (.rxb b))) | _ => none
    else if m = ['T', 'X', 'C'] then
      match operands with | [] => some (some (.op .txc)) | _ => none
    else if m = ['R', 'D', 'Y', '_', 'R', 'D'] then
      match operands with | [] => some (some (.op .rdyRd)) | _ => none
    else if m = ['R', 'D', 'Y', '_', 'C', 'L', 'R'] then
      match operands with | [] => some (some (.op .rdyClr)) | _ => none
    else if m = ['R', 'X', '_', 'R', 'D'] then
      match operands with | [.num idx] => some (some (.op (.rxRd idx))) | _ => none
    else if m = ['T', 'X', '_', 'W', 'R'] then
      match operands with | [.num idx, .comma, .num b] => some (some (.op (.txWr idx b))) | _ => none
    else if m = ['T', 'X', '_', 'P', 'R', 'I', 'M', 'E'] then
      match operands with | [] => some (some (.op .txPrime)) | _ => none
    else if m = ['E', 'N', 'C', '_', 'D', 'E', 'C'] then
      match operands with | [.num v] => some (some (.op (.encDec v))) | _ => none
    else if m = ['E', 'N', 'C', '_', 'H', 'E', 'X'] then
      match operands with | [.num v, .comma, .num g] => some (some (.op (.encHex v g))) | _ => none
    else if m = ['D', 'E', 'C', '_', 'D', 'E', 'C'] then
      match operands with | [.num off] => some (some (.op (.decDec off))) | _ => none
    else if m = ['D', 'E', 'C', '_', 'H', 'E', 'X'] then
      match operands with | [.num off] => some (some (.op (.decHex off))) | _ => none
    else if m = ['R', 'S', 'T'] then
      match operands with | [] => some (some (.op .rst)) | _ => none
    else if m = ['F', 'E', 'E', 'D'] then
      match operands with | [.str t] => some (some (.feed t)) | _ => none
    else if m = ['S', 'E', 'N', 'D'] then
      match operands with | [.str t] => some (some (.send t)) | _ => none
    else if m = ['S', 'E', 'N', 'D', 'L', 'N'] then
      match operands with | [.str t] => some (some (.sendln t)) | _ => none
    else if m = ['D', 'R', 'A', 'I', 'N'] then
      match operands with | [] => some (some .drain) | _ => none
    else if m = ['W', 'A', 'I', 'T', '_', 'R', 'D', 'Y'] then
      match operands with | [] => some (some .waitRdy) | _ => none
    else if m = ['R', 'E', 'A', 'D', '_', 'L', 'I', 'N', 'E'] then
      match operands with | [] => some (some .readLine) | _ => none
    else none
  | _ => none

/-- Reads one script line: none where it is an error of the script (a shape that R63 and R64 do not have, or an operand
that does not fit, R64), some none where it is blank. -/
def parseLine (line : List Char) : Option (Option ScriptItem) :=
  match lexLine line.length line with
  | none => none
  | some tokens =>
    match itemOf tokens with
    | some (some (.op o)) => if o.fits then some (some (.op o)) else none
    | other => other

/-- Reads a script, line by line; blank lines are ignored (30_encoding.md R63). -/
def parseScript : List (List Char) → Option (List ScriptItem)
  | [] => some []
  | line :: lines =>
    match parseLine line, parseScript lines with
    | some (some item), some items => some (item :: items)
    | some none, some items => some items
    | _, _ => none

end Sys2Proof.Machine
end

