-- ==== Sys2Proof/Tests/Slice0.lean ====
section
/-! SUPPORT. The model's own tests. Expected words and results are those of spec/95_test_vectors.md and of the examples in
the operations' rules, never the model's own answers. The theorems named `witness_` show, for each statement of
Certificates/Slice0/Obligations.lean that has hypotheses, a state and operands that meet them. -/

namespace Sys2Proof.Tests

open Sys2Proof Sys2Proof.Machine

/-! ### Helpers -/

/-- The next state of an outcome, if it is one. -/
def nextOf : Host.Outcome State Fault Refusal → Option State
  | .next s => some s
  | .fault _ => none
  | .refused _ => none

/-- The result word that an operation's next state shows. -/
def resultOf (o : Host.Outcome State Fault Refusal) : Option (BitVec 104) :=
  match nextOf o with
  | some s => s.res.map resWord
  | none => none

/-- The state after reset with a capacity. -/
def small (cap : Nat) : State := { State.reset with cap := cap }

/-- A buffer's content from its bytes, index 0 first. -/
def bytesFrom : Nat → List Byte → Memory
  | _, [] => []
  | i, b :: bs => (i, b) :: bytesFrom (i + 1) bs

/-- The state with a line's bytes and their sentinel in the RX buffer. -/
def withLine (l : List Byte) : State := { State.reset with rxBuf := bytesFrom 0 (l ++ [0x00]) }

/-- The state with `"hi"` queued (95_test_vectors.md A6). -/
def hi : State := { State.reset with txBuf := [(0, 0x68), (1, 0x69), (2, 0x00)] }

/-! ### Decoding: one word of each operation, written out from 30_encoding.md R52 to R54 -/

theorem test_decode_rxb : decodeTableWord 48 0x010000000041 = some (.rxb 0x41) := by decide
theorem test_decode_txc : decodeTableWord 48 0x020000000000 = some .txc := by decide
theorem test_decode_rdy_rd : decodeTableWord 48 0x100000000000 = some .rdyRd := by decide
theorem test_decode_rdy_clr : decodeTableWord 48 0x110000000000 = some .rdyClr := by decide
theorem test_decode_rx_rd : decodeTableWord 48 0x124F00000000 = some (.rxRd 79) := by decide
theorem test_decode_tx_wr : decodeTableWord 48 0x205000000078 = some (.txWr 80 0x78) := by decide
theorem test_decode_tx_prime : decodeTableWord 48 0x210000000000 = some .txPrime := by decide
theorem test_decode_enc_dec : decodeTableWord 48 0x3000FFFFFFFF = some (.encDec 4294967295) := by decide
theorem test_decode_enc_hex : decodeTableWord 48 0x3101DEADBEEF = some (.encHex 0xDEADBEEF true) := by decide
theorem test_decode_enc_hex_plain : decodeTableWord 48 0x310012345678 = some (.encHex 0x12345678 false) := by decide
theorem test_decode_dec_dec : decodeTableWord 48 0x320700000000 = some (.decDec 7) := by decide
theorem test_decode_dec_hex : decodeTableWord 48 0x330300000000 = some (.decHex 3) := by decide
theorem test_decode_rst : decodeTableWord 48 0x7F0000000000 = some .rst := by decide

/-! The words that the spec calls illegal (95_test_vectors.md B1, B2, B3, B6, B7, B8; 30_encoding.md R56). -/

theorem test_illegal_zero : decode .host 0x000000000000 = .error .unassignedOpcode := by rfl
theorem test_illegal_enc_dec_aux : decode .host 0x30010000002A = .error .mustBeZero := by rfl
theorem test_illegal_enc_hex_aux : decode .host 0x310200001234 = .error .mustBeZero := by rfl
theorem test_illegal_dec_dec_data : decode .host 0x320000000001 = .error .mustBeZero := by rfl
theorem test_illegal_rdy_rd_data : decode .host 0x100000000001 = .error .mustBeZero := by rfl
theorem test_illegal_tx_wr_data : decode .host 0x200000000100 = .error .mustBeZero := by rfl
theorem test_illegal_txc_from_host : decode .host 0x020000000000 = .error .wrongIssuer := by rfl
theorem test_illegal_rst_from_peripheral : decode .peripheral 0x7F0000000000 = .error .wrongIssuer := by rfl

/-! ### WellFormed: an ill-formed term for each check -/

theorem test_wf_rx_rd : (Instr.rxRd 80).wellFormed 80 = false ∧ (Instr.rxRd 79).wellFormed 80 = true := by decide
theorem test_wf_tx_wr : (Instr.txWr 255 0).wellFormed 255 = false := by decide
theorem test_wf_dec_dec : (Instr.decDec 8).wellFormed 8 = false := by decide
theorem test_wf_dec_hex : (Instr.decHex 3).wellFormed 3 = false := by decide
theorem test_fits_rxb : (ScriptOp.rxb 0x100).fits = false ∧ (ScriptOp.rxb 0xFF).fits = true := by decide
theorem test_fits_rx_rd : (ScriptOp.rxRd 0x100).fits = false := by decide
theorem test_fits_tx_wr : (ScriptOp.txWr 0x100 0).fits = false ∧ (ScriptOp.txWr 0 0x100).fits = false := by decide
theorem test_fits_enc_dec : (ScriptOp.encDec 0x100000000).fits = false := by decide
theorem test_fits_enc_hex : (ScriptOp.encHex 0x100000000 0).fits = false ∧ (ScriptOp.encHex 0 2).fits = false := by decide
theorem test_fits_dec_dec : (ScriptOp.decDec 0x100).fits = false := by decide
theorem test_fits_dec_hex : (ScriptOp.decHex 0x100).fits = false := by decide
theorem test_wf_item_op : (ScriptItem.op (.rxb 0x100)).wellFormed 80 = false := by decide
theorem test_wf_send : (ScriptItem.send [1, 2, 3]).wellFormed 3 = false ∧
    (ScriptItem.send [1, 2]).wellFormed 3 = true := by decide
theorem test_wf_sendln : (ScriptItem.sendln [1]).wellFormed 3 = false ∧
    (ScriptItem.sendln []).wellFormed 3 = true := by decide

/-! ### The operations: at most two tests each -/

/-- 42_rx_framer.md R87's example: `RXB '\r'` at cursor 2. -/
theorem test_rxb_cr : (nextOf (execRxb 0x0D { State.reset with rxBuf := [(0, 0x41), (1, 0x42)], rxCur := 2 })).map
    (fun t => (t.rxBuf, t.rxCur, t.rxReady)) = some ([(0, 0x41), (1, 0x42), (2, 0x00)], 0, true) := by decide

/-- 95_test_vectors.md A5, `CAP = 8`, step 6: the sixth byte is cut. -/
theorem test_rxb_cut : (nextOf (execRxb 0x66
    { small 8 with rxBuf := bytesFrom 0 [0x61, 0x62, 0x63, 0x64, 0x65], rxCur := 5 })).map
    (fun t => (t.rxBuf, t.rxCur, t.rxReady)) =
      some (bytesFrom 0 [0x61, 0x62, 0x63, 0x64, 0x65, 0x66, 0x00], 0, true) := by decide

/-- 95_test_vectors.md B6, step 6. -/
theorem test_rdy_rd : resultOf (execRdyRd { State.reset with rxReady := true }) =
    some 0x00000000000000000000000001 := by decide

/-- 95_test_vectors.md B6, step 12: the cursor of an arriving line stays. -/
theorem test_rdy_clr : (nextOf (execRdyClr { State.reset with rxReady := true, rxCur := 4 })).map
    (fun t => (t.rxReady, t.rxCur)) = some (false, 4) := by decide

/-- 95_test_vectors.md B6, step 9. -/
theorem test_rx_rd : resultOf (execRxRd 1 (withLine [0x6F, 0x6B])) = some 0x0001000000000000000000006B := by decide

/-- 95_test_vectors.md B6, step 16. -/
theorem test_rx_rd_index : resultOf (execRxRd 80 (withLine [0x6F, 0x6B])) =
    some 0x02000000000000000000000000 := by decide

/-- 95_test_vectors.md A6, step 2. -/
theorem test_tx_wr : (nextOf (execTxWr 1 0x69 { State.reset with txBuf := [(0, 0x68)] })).map
    (fun t => (t.txBuf, t.txIdx)) = some ([(0, 0x68), (1, 0x69)], 0) := by decide

/-- 95_test_vectors.md B7, refused. -/
theorem test_tx_wr_index : resultOf (execTxWr 80 0x78 State.reset) = some 0x02000000000000000000000000 := by decide

/-- 95_test_vectors.md A6, step 4. -/
theorem test_tx_prime : (nextOf (execTxPrime hi)).map (fun t => (t.txIdx, t.wireTx, t.txBusy, t.res.map resWord)) =
    some (1, [0x68], true, some 0x00010000000000000000000068) := by decide

/-- 95_test_vectors.md A6, step 6: the terminator is not sent. -/
theorem test_txc_sentinel : (nextOf (execTxc { hi with txIdx := 2, wireTx := [0x68, 0x69] })).map
    (fun t => (t.txIdx, t.wireTx, t.txOut)) = some (0, [0x68, 0x69], none) := by decide

/-- 95_test_vectors.md B7, the full buffer, step 9: `tx_idx = CAP`. -/
theorem test_txc_bound : (nextOf (execTxc { small 4 with
    txBuf := bytesFrom 0 [0x77, 0x78, 0x79, 0x7A], txIdx := 4 })).map (fun t => (t.txIdx, t.txOut)) =
    some (0, none) := by decide

/-- 40_numeric_encode.md R72's example. -/
theorem test_enc_dec : resultOf (execEncDec 42 State.reset) = some 0x00020000000000000000003234 := by decide

/-- 95_test_vectors.md B1, the largest value. -/
theorem test_enc_dec_largest : resultOf (execEncDec 4294967295 State.reset) =
    some 0x000A0035393237363934393234 := by decide

/-- 95_test_vectors.md A4. -/
theorem test_enc_hex : resultOf (execEncHex 0x12345678 true State.reset) =
    some 0x00090000383736352034333231 := by decide

/-- 95_test_vectors.md B2, upper case and four digits. -/
theorem test_enc_hex_short : resultOf (execEncHex 0xABCD false State.reset) =
    some 0x00040000000000000044434241 := by decide

/-- 95_test_vectors.md A8. -/
theorem test_dec_dec_overflow :
    resultOf (execDecDec 0 (withLine [0x34, 0x32, 0x39, 0x34, 0x39, 0x36, 0x37, 0x32, 0x39, 0x36])) =
      some 0x03090000000000000000000000 := by decide

/-- 95_test_vectors.md B3: `"12a"`. -/
theorem test_dec_dec_malformed : resultOf (execDecDec 0 (withLine [0x31, 0x32, 0x61])) =
    some 0x04020000000000000000000000 := by decide

/-- 95_test_vectors.md B4: `"12 34"`. -/
theorem test_dec_hex : resultOf (execDecHex 0 (withLine [0x31, 0x32, 0x20, 0x33, 0x34])) =
    some 0x00050000000000000000001234 := by decide

/-- 95_test_vectors.md B4: `"100000000"`. -/
theorem test_dec_hex_overflow :
    resultOf (execDecHex 0 (withLine [0x31, 0x30, 0x30, 0x30, 0x30, 0x30, 0x30, 0x30, 0x30])) =
      some 0x03080000000000000000000000 := by decide

/-- 95_test_vectors.md B8, step 8: the byte in flight stays in flight. -/
theorem test_rst : (nextOf (execRst { hi with txIdx := 1, txBusy := true, wireTx := [0x68], rxCur := 3 })).map
    (fun t => (t.rxCur, t.txIdx, t.txBuf.length, t.txBusy, t.wireTx)) = some (0, 0, 0, true, [0x68]) := by decide

/-! ### A step -/

/-- 95_test_vectors.md A3: the word `0x300000000000` as the first word after reset. -/
theorem test_step_enc_dec : resultOf (step (State.reset.withFetchWord 48 0x300000000000)) =
    some 0x00010000000000000000000030 := by decide

/-- 95_test_vectors.md B7: TXC from the host. -/
theorem test_step_wrong_issuer :
    resultOf (step { State.reset with inputs := [⟨false, [⟨.cmd, 0x020000000000, false⟩]⟩] }) =
      some 0x01000000000000000000000000 := by decide

/-- 95_test_vectors.md A6, step 5: the peripheral's TXC clears `tx_busy`, and the step sends the next byte. -/
theorem test_step_txc : (nextOf (step (State.withFetchWord
    { hi with txIdx := 1, txBusy := true, wireTx := [0x68] } 48 0x020000000000))).map
    (fun t => (t.txIdx, t.wireTx, t.fTxovr)) = some (2, [0x68, 0x69], false) := by decide

/-! ### Script text (30_encoding.md R63, R64) -/

theorem test_parse_tx_wr : parseLine "TX_WR 0, 'h' ; first byte".toList = some (some (.op (.txWr 0 0x68))) := by decide
theorem test_parse_hex : parseLine "ENC_HEX 0x12345678, 1".toList = some (some (.op (.encHex 0x12345678 1))) := by decide
theorem test_parse_hex_cases : parseLine "RXB 0xeF".toList = some (some (.op (.rxb 0xEF))) := by decide
theorem test_parse_no_digit : parseLine "RXB 0x".toList = none ∧ parseLine "RXB 1A".toList = none := by decide
theorem test_parse_escape : parseLine "RXB '\\r'".toList = some (some (.op (.rxb 0x0D))) := by decide
theorem test_parse_feed : parseLine "FEED \"AB\\r\"".toList = some (some (.feed [0x41, 0x42, 0x0D])) := by decide
theorem test_parse_blank : parseLine "  ; nothing".toList = some none := by decide
theorem test_parse_too_big : parseLine "RXB 256".toList = none := by decide

/-- 30_encoding.md R66. -/
theorem test_send_expands : expandSend 80 [0x68, 0x69] =
    some [.txWr 0 0x68, .txWr 1 0x69, .txWr 2 0x00, .txPrime] := by decide

/-! ### Waiting (30_encoding.md R68; 70_reset_and_hazards.md R151) and the end of a run (R153) -/

/-- A state with a CR pending at the receive port, and then nothing. -/
def crPending : State := { State.reset with inputs := [⟨false, [⟨.rx, 0x01000000000D, false⟩]⟩] }

/-- The result words of a script that is done. -/
def resultsOf : ScriptEnd → Option (List (BitVec 104))
  | .done r => some (r.results.map resWord)
  | .faulted _ => none
  | .refused _ => none
  | .scriptError => none
  | .unfinished _ => none

/-- The first poll finds the flag 0, the pending CR completes a line, and the second finds it 1 (95_test_vectors.md B6). -/
theorem test_wait_rdy_returns : resultsOf (runScript [.waitRdy] ⟨crPending, [], [0, 1]⟩) =
    some [0x00000000000000000000000000, 0x00000000000000000000000001] := by decide

/-- Where no line completes the wait does not return. -/
theorem test_wait_rdy_spins : resultsOf (runScript [.waitRdy] ⟨State.reset, [], [0, 1, 1, 1]⟩) = none := by decide

/-- A run that ends with a byte in flight is over in the open model alone, wordless instants or not. -/
theorem test_run_over :
    let s : State := { hi with txBusy := true, inputs := [⟨false, []⟩] }
    runOver .openSystem s = true ∧ runOver .closedSystem s = false ∧ runOver .openSystem crPending = false := by decide

/-! ### Witnesses: a state and operands that meet each statement's hypotheses -/

/-- A line part received, a byte in flight and a message half sent: nothing in it is at its reset value. -/
def midway : State :=
  { State.reset with
    rxBuf := [(0, 0x41), (1, 0x42)]
    rxCur := 2
    rxReady := true
    txBuf := [(0, 0x68), (1, 0x69), (2, 0x00)]
    txIdx := 1
    txBusy := true
    wireTx := [0x68] }

/-- The peripheral's TXC, and one that a test injects. -/
def ownTxc : Offer := ⟨.txc, 0x020000000000, false⟩
def injectedTxc : Offer := ⟨.txc, 0x020000000000, true⟩
/-- RDY_RD from the host. -/
def rdyRdOffer : Offer := ⟨.cmd, 0x100000000000, false⟩

theorem witness_DecodedWordIsTheOperationsOneWord : decodeWord 0x31010000FFFF = some (.encHex 0xFFFF true) := by decide

theorem witness_WordSelectsAtMostOneRow :
    ∃ r ∈ rows, rowMatches 0x120200000000 r = true := by simp [rows, rowMatches]

theorem witness_IllegalWordHasNoEffect_row : rows.all (fun r => rowMatches 0x310200001234 r == false) = true := by decide
theorem witness_IllegalWordHasNoEffect_issuer :
    decodeWord 0x7F0000000000 = some .rst ∧ Instr.rst.issuer ≠ portIssuer .rx := by decide

theorem witness_StepRunsTheDecodedWord_legal :
    let now : Instant := ⟨false, [ownTxc]⟩
    chosenOffer now.offers 0 = some ownTxc ∧ decode (portIssuer ownTxc.port) ownTxc.word = .ok .txc := ⟨rfl, rfl⟩
theorem witness_StepRunsTheDecodedWord_illegal :
    let o : Offer := ⟨.cmd, 0, false⟩
    chosenOffer [o] 0 = some o ∧ decode (portIssuer o.port) o.word = .error .unassignedOpcode := ⟨rfl, rfl⟩
theorem witness_StepServesAPortsFirstWord :
    let now : Instant := ⟨false, [ownTxc, rdyRdOffer]⟩
    ({ midway with inputs := [now] } : State).inputs = now :: [] ∧ now.rst = false ∧ now.offers ≠ [] := by decide
theorem witness_IdleBlockLosesNoState :
    midway.inputs = [] ∧ ({ midway with inputs := [⟨false, []⟩] } : State).inputs = [⟨false, []⟩] := by decide
theorem witness_ResetPinWinsOverTheInstantsWords :
    let now : Instant := ⟨true, [ownTxc, rdyRdOffer]⟩
    ({ midway with inputs := [now] } : State).inputs = now :: [] ∧ now.rst = true ∧ midway.txBusy = true := by decide

theorem witness_RxbAppendsEndsOrCutsTheLine : midway.rxCur < midway.cap := by decide
/-- The cursor at `LAST`: a data byte is cut, a CR is not. -/
theorem witness_RxbAppendsEndsOrCutsTheLine_cut :
    let s : State := { State.reset with rxCur := 77 }
    s.rxCur < s.cap ∧ s.rxCur + 1 = s.cap - 2 ∧ (0x0D : Byte) = 0x0D ∧ ¬ ((0x78 : Byte) = 0x0D ∨ (0x78 : Byte) = 0x0C) := by
  decide
theorem witness_RxbStoresAtTheCursorOnly : (small 3).rxCur < (small 3).cap ∧ (small 3).rxCur + 1 = (small 3).cap - 2 := by
  decide
theorem witness_RxbOutsideTheBufferFaults :
    let s : State := { small 3 with rxCur := 3 }
    s.cap ≤ s.rxCur := by decide
theorem witness_RxRdReturnsTheByte :
    (1 : Byte).toNat < midway.cap ∧ memGet midway.rxBuf (1 : Byte).toNat = some 0x42 ∧
    (79 : Byte).toNat < midway.cap ∧ memGet midway.rxBuf (79 : Byte).toNat = none := by decide
theorem witness_IndexOutOfRangeIsRefused :
    midway.cap ≤ (80 : Byte).toNat ∧ (small 255).cap ≤ (255 : Byte).toNat ∧ BlockInv midway ∧
    BlockInv (small 3) ∧ (let s : State := { small 4 with txIdx := 4 }; s.cap ≤ s.txIdx) := by decide
theorem witness_RxFramerTransitions :
    3 ≤ midway.cap ∧ midway.rxCur ≤ midway.cap - 3 ∧ midway.rxCur + 1 < midway.cap - 2 ∧
    3 ≤ (small 3).cap ∧ (small 3).rxCur ≤ (small 3).cap - 3 ∧ (small 3).rxCur + 1 = (small 3).cap - 2 := by decide
theorem witness_RxFramerTransitions_others :
    (∃ t, exec .rdyRd midway = .next t) ∧ decode (portIssuer .rx) 0x7F0000000000 = .error .wrongIssuer := ⟨⟨_, rfl⟩, rfl⟩
/-- The longest line that is not cut and the shortest that is, with `CAP = 8`; the empty line with `CAP = 3`. -/
theorem witness_CompletedLineStandsInTheBuffer :
    Config.LegalCap (small 8).cap ∧ (small 8).rxCur = 0 ∧
    (∀ b ∈ ([0x61, 0x62, 0x63, 0x64, 0x65, 0x66] : List Byte), b ≠ 0x0D ∧ b ≠ 0x0C) ∧
    ([0x61, 0x62, 0x63, 0x64, 0x65] : List Byte).length ≤ (small 8).cap - 3 ∧
    ([0x61, 0x62, 0x63, 0x64, 0x65, 0x66] : List Byte).length = (small 8).cap - 2 ∧
    Config.LegalCap (small 3).cap ∧ ([] : List Byte).length ≤ (small 3).cap - 3 := by decide
theorem witness_OverLongLineIsCutInPieces :
    Config.LegalCap (small 4).cap ∧ (small 4).rxCur = 0 ∧
    (∀ b ∈ ([0x61, 0x62, 0x63] : List Byte), b ≠ 0x0D ∧ b ≠ 0x0C) := by decide

theorem witness_TxWrStoresItsByteOnly : (79 : Byte).toNat < midway.cap := by decide
theorem witness_DrainStepSendsTheByte :
    hi.txIdx < hi.cap ∧ memGet hi.txBuf hi.txIdx = some 0x68 ∧ (0x68 : Byte) ≠ 0x00 ∧ hi.txBusy = false ∧
    hi.fTxovr = false := by decide
theorem witness_DrainStepWhileBusyOverruns :
    midway.txIdx < midway.cap ∧ memGet midway.txBuf midway.txIdx = some 0x69 ∧ (0x69 : Byte) ≠ 0x00 ∧
    midway.txBusy = true := by decide
theorem witness_DrainStepStopsAtTheSentinel :
    let s : State := { hi with txIdx := 2 }
    s.txIdx < s.cap ∧ memGet s.txBuf s.txIdx = some 0x00 := by decide
theorem witness_DrainStepAtTheBoundReadsNothing :
    let s : State := { small 255 with txIdx := 255 }
    s.cap ≤ s.txIdx := by decide
theorem witness_DrainStepOverUndefSendsOrStops :
    State.reset.txIdx < State.reset.cap ∧ memGet State.reset.txBuf State.reset.txIdx = none := by decide
theorem witness_TxDrainerTransitions :
    hi.txIdx < hi.cap ∧ memGet hi.txBuf hi.txIdx = some 0x68 ∧ (0x68 : Byte) ≠ 0x00 ∧
    (let s : State := { hi with txIdx := 2 }; s.txIdx < s.cap ∧ memGet s.txBuf s.txIdx = some 0x00) ∧
    (let s : State := { small 4 with txIdx := 4 }; s.txIdx = s.cap) := by decide
theorem witness_TxDrainerTransitions_others :
    (∃ t, exec .rdyClr midway = .next t) ∧ decode (portIssuer .txc) 0 = .error .unassignedOpcode := ⟨⟨_, rfl⟩, rfl⟩
/-- A message with its sentinel, and one that fills the buffer. -/
theorem witness_FullDrainSendsTheMessage :
    let full : State := { small 4 with txBuf := bytesFrom 0 [0x77, 0x78, 0x79, 0x7A] }
    ([0x68, 0x69] : List Byte).length ≤ hi.cap ∧ (∀ b ∈ ([0x68, 0x69] : List Byte), b ≠ 0x00) ∧
    (∀ k, k < ([0x68, 0x69] : List Byte).length → memGet hi.txBuf k = ([0x68, 0x69] : List Byte)[k]?) ∧
    memGet hi.txBuf ([0x68, 0x69] : List Byte).length = some 0x00 ∧ hi.txIdx = 0 ∧ hi.txBusy = false ∧
    hi.fTxovr = false ∧
    ([0x77, 0x78, 0x79, 0x7A] : List Byte).length = full.cap ∧
    (∀ k, k < ([0x77, 0x78, 0x79, 0x7A] : List Byte).length →
      memGet full.txBuf k = ([0x77, 0x78, 0x79, 0x7A] : List Byte)[k]?) := by decide
theorem witness_SendThenDrainPutsTheTextOnTheWire :
    Config.LegalCap (small 3).cap ∧ ([0x68, 0x69] : List Byte).length ≤ (small 3).cap - 1 ∧
    (∀ b ∈ ([0x68, 0x69] : List Byte), b ≠ 0x00) ∧ (small 3).txIdx = 0 ∧ (small 3).txBusy = false ∧
    (small 3).fTxovr = false := by decide

theorem witness_DigitCharacters :
    0x39 ∈ encodeDecimal 4294967295 ∧ 0x46 ∈ encodeHex 0xFFFFFFFF true ∧ 10 ≤ 15 ∧ 15 ≤ 15 := by decide
theorem witness_NumericTextSizes :
    (0xFFFF : Value).toNat ≤ 0xFFFF ∧ 0xFFFF < (0x10000 : Value).toNat := by decide
/-- `"4294967295"`, `"4x"`, and `"4294967296"` at its tenth digit. -/
theorem witness_DecimalDecodeIsExact :
    (let l : List Byte := [0x34, 0x32, 0x39, 0x34, 0x39, 0x36, 0x37, 0x32, 0x39, 0x35]
     (∀ c ∈ l, (decval c).isSome = true) ∧ textValue 10 decval l < 2 ^ 32) ∧
    (let l : List Byte := [0x34, 0x78]
     l[1]? = some 0x78 ∧ (∀ d ∈ l.take 1, (decval d).isSome = true) ∧ textValue 10 decval (l.take 1) < 2 ^ 32 ∧
       decval 0x78 = none) ∧
    (let l : List Byte := [0x34, 0x32, 0x39, 0x34, 0x39, 0x36, 0x37, 0x32, 0x39, 0x36]
     l[9]? = some 0x36 ∧ (∀ e ∈ l.take 9, (decval e).isSome = true) ∧ textValue 10 decval (l.take 9) < 2 ^ 32 ∧
       decval 0x36 = some 6 ∧ 2 ^ 32 ≤ textValue 10 decval (l.take 9) * 10 + 6) := by decide
/-- `"FFFF FFFF"`, `"0x10"` at its second character, and `"100000000"` at its ninth digit. -/
theorem witness_HexDecodeIsExact :
    (let l : List Byte := [0x46, 0x46, 0x46, 0x46, 0x20, 0x46, 0x46, 0x46, 0x46]
     (∀ c ∈ withoutSpaces l, (hexval c).isSome = true) ∧ textValue 16 hexval (withoutSpaces l) < 2 ^ 32) ∧
    (let l : List Byte := [0x30, 0x78, 0x31, 0x30]
     l[1]? = some 0x78 ∧ (∀ d ∈ withoutSpaces (l.take 1), (hexval d).isSome = true) ∧
       textValue 16 hexval (withoutSpaces (l.take 1)) < 2 ^ 32 ∧ (0x78 : Byte) ≠ 0x20 ∧ hexval 0x78 = none) ∧
    (let l : List Byte := [0x31, 0x30, 0x30, 0x30, 0x30, 0x30, 0x30, 0x30, 0x30]
     l[8]? = some 0x30 ∧ (∀ e ∈ withoutSpaces (l.take 8), (hexval e).isSome = true) ∧
       2 ^ 28 ≤ textValue 16 hexval (withoutSpaces (l.take 8)) ∧
       textValue 16 hexval (withoutSpaces (l.take 8)) < 2 ^ 32 ∧ (0x30 : Byte) ≠ 0x20 ∧ hexval 0x30 = some 0) := by
  decide
theorem witness_DecodeReadsTheLineFromItsOffset :
    let s := withLine [0x61, 0x34, 0x32]
    (1 : Byte).toNat < s.cap ∧ contentLoop (s.cap - (1 : Byte).toNat) s.rxBuf (1 : Byte).toNat = some [0x34, 0x32] := by
  decide
theorem witness_DecodeOverUndefIsSomeChoiceOfBytes : (79 : Byte).toNat < State.reset.cap := by decide

theorem witness_ValuesAfterReset_rst : ∃ t, exec .rst midway = .next t := ⟨_, rfl⟩
theorem witness_ValuesAfterReset_pin :
    let now : Instant := ⟨true, [ownTxc]⟩
    let s : State := { midway with inputs := [now] }
    ∃ t, s.inputs = now :: [] ∧ now.rst = true ∧ step s = .next t := ⟨_, rfl, rfl, rfl⟩
theorem witness_ValuesAfterReset_overrun :
    let s : State := { midway with fTxovr := true }
    s.fTxovr = true ∧ ∃ t, step s = .next t := ⟨rfl, _, rfl⟩

theorem witness_OperationWritesOnlyItsColumns : ∃ t, exec (.rxb 0x43) midway = .next t := ⟨_, rfl⟩
theorem witness_DisjointOperationsCommute :
    commutePair (.rxb 0x43) .txc = true ∧ ∃ s1 s2, exec (.rxb 0x43) midway = .next s1 ∧ exec .txc s1 = .next s2 :=
  ⟨rfl, _, _, rfl, rfl⟩
theorem witness_DisjointOperationsCommute_encoder :
    commutePair .rst (.encDec 42) = true ∧ ∃ s1 s2, exec .rst midway = .next s1 ∧ exec (.encDec 42) s1 = .next s2 :=
  ⟨rfl, _, _, rfl, rfl⟩
theorem witness_StepKeepsTheInvariant :
    let s := offerWord (encode (.rxb 0x43)) midway
    BlockInv s ∧ ∃ t, step s = .next t := ⟨by decide, _, rfl⟩
theorem witness_StepNeverStops : BlockInv midway := by decide
theorem witness_StepKeepsTheOwedTransmitComplete :
    let s := offerWord (encode .txPrime) midway
    SendOwed s ∧ ∃ t, step s = .next t := ⟨by decide, _, rfl⟩
theorem witness_OverrunOnlyByEarlyPrimeOrInjectedTxc :
    let s := offerWord (encode .txc) midway
    closedStep s = true ∧ primeTooEarly s = false ∧ s.fTxovr = false ∧ ∃ t, step s = .next t :=
  ⟨by decide, by decide, rfl, _, rfl⟩
/-- An injected TXC and an early TX_PRIME are what the premises shut out. -/
theorem test_overrun_premises :
    closedStep { midway with inputs := [⟨false, [injectedTxc]⟩] } = false ∧
    primeTooEarly (offerWord (encode .txPrime) midway) = true := by decide
theorem witness_StepIsARelationWithItsParameters :
    (∃ t, step crPending = .next t) ∧
    StepRel midway.params midway.spec ⟨none, none, none⟩ midway.spec ∧
    (∃ t, exec .txPrime hi = .next t) := ⟨⟨_, rfl⟩, ⟨_, rfl, rfl, rfl⟩, ⟨_, rfl⟩⟩
theorem witness_WaitReturnsExactlyWhenALineCompletes :
    (∃ r, runPending 1 ⟨crPending, [], []⟩ = .done r ∧ r.state.rxReady = true) ∧ LineWillComplete crPending :=
  ⟨⟨_, rfl, rfl⟩, 1, _, rfl, rfl⟩
theorem idle_pending (n : Nat) (r : Ran) (h : runPending n ⟨quiet State.reset, [], []⟩ = .done r) :
    r.state = quiet State.reset := by
  induction n with
  | zero => cases h; rfl
  | succ n ih => exact ih h
/-- Where nothing is pending no line completes. -/
theorem witness_WaitReturnsExactlyWhenALineCompletes_never : ¬ LineWillComplete (quiet State.reset) := by
  rintro ⟨n, r, h, ready⟩
  rw [idle_pending n r h] at ready
  cases ready
theorem witness_RunIsOverWhenItsWordsAreExhausted :
    runOver .openSystem midway = true ∧ runOver .closedSystem { hi with inputs := [⟨false, []⟩] } = true := by decide
theorem witness_CursorsFitTheirRegisters :
    let s : State := { small 255 with rxCur := 0, txIdx := 255 }
    BlockInv s := by decide
theorem witness_ResultWordIsAnOutputWithItsFields :
    (∃ t r, exec (.decDec 0) (withLine [0x34, 0x32]) = .next t ∧ t.res = some r) ∧
    (79 : Byte).toNat < (withLine [0x34, 0x32]).cap := ⟨⟨_, _, rfl, rfl⟩, by decide⟩
theorem witness_StatusCodesAndWhoRaisesThem :
    (∃ t r, exec (.rxRd 80) midway = .next t ∧ t.res = some r) ∧
    (∃ t r, exec (.decDec 0) (withLine [0x78]) = .next t ∧ t.res = some r) ∧
    (∃ t r, serveWord ⟨.rx, 0, false⟩ midway = .next t ∧ t.res = some r ∧ r.st = .illegal) :=
  ⟨⟨_, _, rfl, rfl⟩, ⟨_, _, rfl, rfl⟩, ⟨_, _, rfl, rfl, rfl⟩⟩

end Sys2Proof.Tests
end

/-! PROOFS. The family 10_state.md: what each operation answers, the effect of an operation on the state, what a step
begins with and ends in, and the obligations O13, O42, O43, O46, O50 and O53 from these. -/

/-! ### What each operation answers -/

namespace Sys2Proof.Proofs

open Sys2Proof Sys2Proof.Machine Sys2Proof.Laws

variable {s t : State}

/-- RXB answers exactly with the cursor inside the buffer (42_rx_framer.md R87). -/
theorem exec_rxb_eq_next {b : Byte} :
    exec (.rxb b) s = .next t ↔ s.rxCur < s.cap ∧ t = reply resOk none (frameByte b s) := by
  by_cases h : s.rxCur < s.cap <;> simp [exec, execRxb, h, eq_comm]

theorem exec_rxb_of_cursor_outside {b : Byte} (h : s.cap ≤ s.rxCur) :
    exec (.rxb b) s = .fault .rxCursorOutside := if_neg (Nat.not_lt.mpr h)

theorem exec_txc_eq_next : exec .txc s = .next t ↔ t = drainStep s := by simp [exec, execTxc, eq_comm]

theorem exec_txPrime_eq_next : exec .txPrime s = .next t ↔ t = drainStep s := by simp [exec, execTxPrime, eq_comm]

theorem exec_rdyRd_eq_next : exec .rdyRd s = .next t ↔ t = reply ⟨.ok, 0, readyData s⟩ none s := by
  simp [exec, execRdyRd, eq_comm]

theorem exec_rdyClr_eq_next : exec .rdyClr s = .next t ↔ t = reply resOk none (clearReady s) := by
  simp [exec, execRdyClr, eq_comm]

/-- RX_RD is served at a legal index and refused at any other (42_rx_framer.md R93; 60_exceptions.md R114). -/
theorem exec_rxRd_eq_next {idx : Byte} :
    exec (.rxRd idx) s = .next t ↔
      (indexLegal idx s = true ∧
        t = reply (resOfByte (readByte .rx (indexOf idx) s)) none (afterRead .rx (indexOf idx) s)) ∨
      (indexLegal idx s = false ∧ t = refuse .index s) := by
  cases h : indexLegal idx s <;> simp [exec, execRxRd, h, eq_comm]

/-- TX_WR is served at a legal index and refused at any other (43_tx_drainer.md R99; 60_exceptions.md R114). -/
theorem exec_txWr_eq_next {idx b : Byte} :
    exec (.txWr idx b) s = .next t ↔
      (indexLegal idx s = true ∧ t = reply resOk none (writeByte .tx (indexOf idx) b s)) ∨
      (indexLegal idx s = false ∧ t = refuse .index s) := by
  cases h : indexLegal idx s <;> simp [exec, execTxWr, h, eq_comm]

theorem exec_encDec_eq_next {v : Value} :
    exec (.encDec v) s = .next t ↔ t = reply (resOfText (encodeDecimal v)) none s := by
  simp [exec, execEncDec, eq_comm]

theorem exec_encHex_eq_next {v : Value} {g : Bool} :
    exec (.encHex v g) s = .next t ↔ t = reply (resOfText (encodeHex v g)) none s := by
  simp [exec, execEncHex, eq_comm]

/-- DEC_DEC is served at a legal offset and refused at any other (41_numeric_decode.md R82; 60_exceptions.md R114). -/
theorem exec_decDec_eq_next {off : Byte} :
    exec (.decDec off) s = .next t ↔
      (indexLegal off s = true ∧
        t = reply (resOfDecoded (decodeDecimal (scanText (indexOf off) s))) none (afterScan (indexOf off) s)) ∨
      (indexLegal off s = false ∧ t = refuse .index s) := by
  cases h : indexLegal off s <;> simp [exec, execDecDec, h, eq_comm]

/-- DEC_HEX is served at a legal offset and refused at any other (41_numeric_decode.md R83; 60_exceptions.md R114). -/
theorem exec_decHex_eq_next {off : Byte} :
    exec (.decHex off) s = .next t ↔
      (indexLegal off s = true ∧
        t = reply (resOfDecoded (decodeHex (scanText (indexOf off) s))) none (afterScan (indexOf off) s)) ∨
      (indexLegal off s = false ∧ t = refuse .index s) := by
  cases h : indexLegal off s <;> simp [exec, execDecHex, h, eq_comm]

theorem exec_rst_eq_next : exec .rst s = .next t ↔ t = reply resOk none (resetBlock s) := by
  simp [exec, execRst, eq_comm]

end Sys2Proof.Proofs

/-! ### The effect of an operation -/

namespace Sys2Proof.Proofs

open Sys2Proof Sys2Proof.Machine Sys2Proof.Laws

/-- What an operation that answers makes of the state `s`. Five effects write a register or a buffer; the sixth, of every
operation that reads, computes or is refused, uses up free values of the RX space at most. -/
inductive OpEffect (s : State) : Instr → State → Prop
  /-- RXB -/
  | frame (b : Byte) : OpEffect s (.rxb b) (reply resOk none (frameByte b s))
  /-- TXC and TX_PRIME -/
  | drain {i : Instr} (hi : i = .txc ∨ i = .txPrime) : OpEffect s i (drainStep s)
  /-- TX_WR at a legal index -/
  | store (idx b : Byte) : OpEffect s (.txWr idx b) (reply resOk none (writeByte .tx (indexOf idx) b s))
  /-- RDY_CLR -/
  | clear : OpEffect s .rdyClr (reply resOk none (clearReady s))
  /-- RST -/
  | reset : OpEffect s .rst (reply resOk none (resetBlock s))
  /-- any other operation, and every refusal -/
  | look (i : Instr) (r : Res) (draws : Nat) : OpEffect s i (reply r none (setDraws .rx draws s))

variable {s t : State} {i : Instr}

/-- A refusal is an effect that draws nothing. -/
theorem OpEffect.refused (i : Instr) (st : Status) : OpEffect s i (refuse st s) := .look i ⟨st, 0, 0⟩ s.rxDraws

/-- A read of the RX buffer only counts draws. -/
theorem afterRead_rx_eq_setDraws (k : Nat) (s : State) : ∃ n, afterRead .rx k s = setDraws .rx n s := by
  cases h : memGet (spaceBuf s .rx) k with
  | some b => exact ⟨s.rxDraws, (readByte_defined h).2⟩
  | none => exact ⟨_, (readByte_undef h).2⟩

/-- Every operation that answers has one of the six effects. -/
theorem exec_effect (h : exec i s = .next t) : OpEffect s i t := by
  cases i with
  | rxb b => obtain ⟨-, rfl⟩ := exec_rxb_eq_next.mp h; exact .frame b
  | txc => obtain rfl := exec_txc_eq_next.mp h; exact .drain (.inl rfl)
  | rdyRd => obtain rfl := exec_rdyRd_eq_next.mp h; exact .look _ _ s.rxDraws
  | rdyClr => obtain rfl := exec_rdyClr_eq_next.mp h; exact .clear
  | rxRd idx =>
    obtain ⟨-, rfl⟩ | ⟨-, rfl⟩ := exec_rxRd_eq_next.mp h
    · obtain ⟨n, hn⟩ := afterRead_rx_eq_setDraws (indexOf idx) s
      rw [hn]
      exact .look _ _ n
    · exact .refused _ _
  | txWr idx b =>
    obtain ⟨-, rfl⟩ | ⟨-, rfl⟩ := exec_txWr_eq_next.mp h
    · exact .store idx b
    · exact .refused _ _
  | txPrime => obtain rfl := exec_txPrime_eq_next.mp h; exact .drain (.inr rfl)
  | encDec v => obtain rfl := exec_encDec_eq_next.mp h; exact .look _ _ s.rxDraws
  | encHex v g => obtain rfl := exec_encHex_eq_next.mp h; exact .look _ _ s.rxDraws
  | decDec off =>
    obtain ⟨-, rfl⟩ | ⟨-, rfl⟩ := exec_decDec_eq_next.mp h
    · exact .look _ _ _
    · exact .refused _ _
  | decHex off =>
    obtain ⟨-, rfl⟩ | ⟨-, rfl⟩ := exec_decHex_eq_next.mp h
    · exact .look _ _ _
    · exact .refused _ _
  | rst => obtain rfl := exec_rst_eq_next.mp h; exact .reset

/-! The columns of the read and write matrix (10_state.md section 9), one lemma for each. -/

theorem exec_keeps_rxBuf_rxCur (h : exec i s = .next t) (notRxb : ∀ b, i ≠ .rxb b) (notRst : i ≠ .rst) :
    t.rxBuf = s.rxBuf ∧ t.rxCur = s.rxCur := by
  cases exec_effect h with
  | frame b => exact absurd rfl (notRxb b)
  | drain => simp [drainStep_frame]
  | store | clear | look => simp
  | reset => exact absurd rfl notRst

theorem exec_keeps_rxReady (h : exec i s = .next t) (notRxb : ∀ b, i ≠ .rxb b) (notClr : i ≠ .rdyClr)
    (notRst : i ≠ .rst) : t.rxReady = s.rxReady := by
  cases exec_effect h with
  | frame b => exact absurd rfl (notRxb b)
  | drain => simp [drainStep_frame]
  | store | look => simp
  | clear => exact absurd rfl notClr
  | reset => exact absurd rfl notRst

theorem exec_keeps_txBuf (h : exec i s = .next t) (notWr : ∀ idx b, i ≠ .txWr idx b) (notRst : i ≠ .rst) :
    t.txBuf = s.txBuf := by
  cases exec_effect h with
  | frame => simp [frameByte_frame]
  | drain => simp [drainStep_frame]
  | store idx b => exact absurd rfl (notWr idx b)
  | clear | look => simp
  | reset => exact absurd rfl notRst

theorem exec_keeps_txIdx (h : exec i s = .next t) (notTxc : i ≠ .txc) (notPrime : i ≠ .txPrime) (notRst : i ≠ .rst) :
    t.txIdx = s.txIdx := by
  cases exec_effect h with
  | frame => simp [frameByte_frame]
  | drain hi => exact absurd hi (not_or.mpr ⟨notTxc, notPrime⟩)
  | store | clear | look => simp
  | reset => exact absurd rfl notRst

/-- Only a drain step reaches the peripheral (60_exceptions.md R128). -/
theorem exec_keeps_peripheral (h : exec i s = .next t) (notTxc : i ≠ .txc) (notPrime : i ≠ .txPrime) :
    t.txOut = none ∧ t.txBusy = s.txBusy ∧ t.wireTx = s.wireTx ∧ t.fTxovr = s.fTxovr := by
  cases exec_effect h with
  | frame => simp [frameByte_frame]
  | drain hi => exact absurd hi (not_or.mpr ⟨notTxc, notPrime⟩)
  | store | clear | reset | look => simp

theorem drainStep_res_isSome (s : State) : (drainStep s).res.isSome = true := by
  rcases drainStep_cases s with ⟨-, -, h⟩ | ⟨-, -, h⟩ | ⟨-, h⟩ <;> simp [h]

/-- What 10_state.md R30 makes a parameter, and the issuer, is as before; and there is a result word. -/
theorem exec_keeps_parameters (h : exec i s = .next t) :
    t.cap = s.cap ∧ t.inputs = s.inputs ∧ t.arbDraws = s.arbDraws ∧ t.served = s.served ∧ t.res.isSome = true := by
  cases exec_effect h with
  | frame => simp [frameByte_frame]
  | drain => simp [drainStep_frame, drainStep_res_isSome]
  | store | clear | reset | look => simp

/-! The overrun flag is sticky (10_state.md R27). -/

theorem drainStep_fTxovr_of_set (h : s.fTxovr = true) : (drainStep s).fTxovr = true := by
  rcases drainStep_cases s with ⟨-, -, hd⟩ | ⟨-, -, hd⟩ | ⟨-, hd⟩ <;> simp [hd, h]

theorem exec_fTxovr_of_set (h : exec i s = .next t) (hs : s.fTxovr = true) : t.fTxovr = true := by
  cases exec_effect h with
  | frame => simp [frameByte_frame, hs]
  | drain => exact drainStep_fTxovr_of_set hs
  | store | clear | reset | look => simp [hs]

/-- Settles O13. -/
theorem rxbOutsideTheBufferFaults : Obligations.RxbOutsideTheBufferFaults := fun _ _ h =>
  exec_rxb_of_cursor_outside h

/-- Settles O43: one column of the matrix after the other. -/
theorem operationWritesOnlyItsColumns : Obligations.OperationWritesOnlyItsColumns := by
  intro i s t h
  refine ⟨fun notRxb notRst => ?_, exec_keeps_rxReady h, fun notWr notRst j => ?_, exec_keeps_txIdx h,
    exec_keeps_peripheral h, exec_keeps_parameters h⟩
  · obtain ⟨hbuf, hcur⟩ := exec_keeps_rxBuf_rxCur h notRxb notRst
    exact ⟨fun j => by rw [hbuf], hcur⟩
  · rw [exec_keeps_txBuf h notWr notRst]

end Sys2Proof.Proofs

/-! ### What a step can do -/

namespace Sys2Proof.Proofs

open Sys2Proof Sys2Proof.Machine Sys2Proof.Laws

variable {s t : State}

/-- Everything a step that answers can do: the inputs are over, the pin resets, an instant without a word passes, or a
word is served. -/
theorem step_next_cases (h : step s = .next t) :
    (s.inputs = [] ∧ t = quiet s) ∨
    (∃ now later, s.inputs = now :: later ∧ now.rst = true ∧ t = quiet (resetBlock (passInstant later s))) ∨
    (∃ now later, s.inputs = now :: later ∧ now.rst = false ∧ now.offers = [] ∧ t = quiet (passInstant later s)) ∨
    (∃ now later o, s.inputs = now :: later ∧ now.rst = false ∧ chosenOffer now.offers s.arbDraws = some o ∧
      serveWord o (takeWord o now later s) = .next t) := by
  unfold step at h
  rcases fetch_cases s with ⟨hin, hf⟩ | ⟨now, later, hin, hr, hf⟩ | ⟨now, later, hin, hr, ho, hf⟩ |
    ⟨now, later, o, hin, hr, ho, hf⟩ <;> rw [hf] at h
  · cases h; exact .inl ⟨hin, rfl⟩
  · cases h; exact .inr (.inl ⟨now, later, hin, hr, rfl⟩)
  · cases h; exact .inr (.inr (.inl ⟨now, later, hin, hr, ho, rfl⟩))
  · exact .inr (.inr (.inr ⟨now, later, o, hin, hr, ho, h⟩))

/-- Everything the serving of a word that answers can do: `ST_ILLEGAL`, or the operation's rule. -/
theorem serveWord_next_cases {o : Offer} (h : serveWord o s = .next t) :
    (∃ e, decode (portIssuer o.port) o.word = .error e ∧ t = refuse .illegal s) ∨
    (∃ i, decode (portIssuer o.port) o.word = .ok i ∧ exec i (arrive o i s) = .next t) := by
  rcases serveWord_cases o s with ⟨e, hd, hw⟩ | ⟨i, hd, hw⟩ <;> rw [hw] at h
  · cases h; exact .inl ⟨e, hd, rfl⟩
  · exact .inr ⟨i, hd, h⟩

/-! The same cases as equations, from what the inputs and the word are. -/

theorem step_of_no_input (hin : s.inputs = []) : step s = .next (quiet s) := by
  simp [step, fetch, hin]

/-- A step with the pin high is the reset, whatever its instant offers (44_system.md R110). -/
theorem step_of_rst {now : Instant} {later : List Instant} (hin : s.inputs = now :: later) (hr : now.rst = true) :
    step s = .next (quiet (resetBlock (passInstant later s))) := by
  simp [step, fetch, hin, hr]

theorem step_of_no_offer {now : Instant} {later : List Instant} (hin : s.inputs = now :: later)
    (hr : now.rst = false) (ho : now.offers = []) : step s = .next (quiet (passInstant later s)) := by
  simp [step, fetch, hin, hr, ho, chosenOffer]

theorem step_of_offer {now : Instant} {later : List Instant} {o : Offer} (hin : s.inputs = now :: later)
    (hr : now.rst = false) (ho : chosenOffer now.offers s.arbDraws = some o) :
    step s = serveWord o (takeWord o now later s) := by
  simp [step, fetch, hin, hr, ho]

theorem serveWord_of_error {o : Offer} {e : DecodeError} (hd : decode (portIssuer o.port) o.word = .error e) :
    serveWord o s = .next (refuse .illegal s) := by
  simp [serveWord, hd]

theorem serveWord_of_ok {o : Offer} {i : Instr} (hd : decode (portIssuer o.port) o.word = .ok i) :
    serveWord o s = exec i (arrive o i s) := by
  simp [serveWord, hd]

/-! The peripheral's side of an arriving word touches `tx_busy` alone (60_exceptions.md R129). -/

@[simp] theorem arrive_cap (o : Offer) (i : Instr) (s : State) : (arrive o i s).cap = s.cap := by
  rcases arrive_cases o i s with ⟨-, -, h⟩ | ⟨-, h⟩ <;> simp [h]

@[simp] theorem arrive_inputs (o : Offer) (i : Instr) (s : State) : (arrive o i s).inputs = s.inputs := by
  rcases arrive_cases o i s with ⟨-, -, h⟩ | ⟨-, h⟩ <;> simp [h]

@[simp] theorem arrive_fTxovr (o : Offer) (i : Instr) (s : State) : (arrive o i s).fTxovr = s.fTxovr := by
  rcases arrive_cases o i s with ⟨-, -, h⟩ | ⟨-, h⟩ <;> simp [h]

/-- Serving a word changes neither the capacity nor the words to come. -/
theorem serveWord_keeps_cap_inputs {o : Offer} (h : serveWord o s = .next t) :
    t.cap = s.cap ∧ t.inputs = s.inputs := by
  obtain ⟨e, -, rfl⟩ | ⟨i, -, hx⟩ := serveWord_next_cases h
  · simp
  · obtain ⟨hcap, hinputs, -⟩ := exec_keeps_parameters hx
    simpa using And.intro hcap hinputs

theorem serveWord_fTxovr_of_set {o : Offer} (h : serveWord o s = .next t) (hs : s.fTxovr = true) :
    t.fTxovr = true := by
  obtain ⟨e, -, rfl⟩ | ⟨i, -, hx⟩ := serveWord_next_cases h
  · simpa using hs
  · exact exec_fTxovr_of_set hx (by simpa using hs)

/-- No step clears the overrun flag (10_state.md R28). -/
theorem step_fTxovr_of_set (h : step s = .next t) (hs : s.fTxovr = true) : t.fTxovr = true := by
  obtain ⟨-, rfl⟩ | ⟨now, later, -, -, rfl⟩ | ⟨now, later, -, -, -, rfl⟩ | ⟨now, later, o, -, -, -, hw⟩ :=
    step_next_cases h
  · simpa using hs
  · simpa using hs
  · simpa using hs
  · exact serveWord_fTxovr_of_set hw (by simpa using hs)

/-- Settles O42: the two resets end in `resetBlock`, and the flag is sticky. -/
theorem valuesAfterReset : Obligations.ValuesAfterReset := by
  refine ⟨⟨rfl, rfl, rfl, fun _ => ⟨rfl, rfl⟩, rfl⟩, fun s t now later h => ?_, fun s t hs h => step_fTxovr_of_set h hs⟩
  rcases h with h | ⟨hin, hr, h⟩
  · obtain rfl := exec_rst_eq_next.mp h
    simp
  · rw [step_of_rst hin hr] at h
    cases h
    simp

end Sys2Proof.Proofs

/-! ### The invariant at reset, and the widths of the registers -/

namespace Sys2Proof.Proofs

open Sys2Proof Sys2Proof.Machine Sys2Proof.Laws

/-- A number up to `CAP` fits `IDXW` bits (00_scope.md R10). -/
theorem lt_two_pow_idxWidth {n cap : Nat} (h : n ≤ cap) : n < 2 ^ Config.idxWidth cap :=
  calc n < cap + 1 := Nat.lt_succ_of_le h
    _ ≤ 2 ^ Config.idxWidth cap := Nat.le_pow_clog Nat.one_lt_two (cap + 1)

theorem toNat_ofNat_idxWidth {n cap : Nat} (h : n ≤ cap) : (BitVec.ofNat (Config.idxWidth cap) n).toNat = n :=
  (BitVec.toNat_ofNat _ _).trans (Nat.mod_eq_of_lt (lt_two_pow_idxWidth h))

/-- Settles O50: both numbers are at most `CAP`. -/
theorem cursorsFitTheirRegisters : Obligations.CursorsFitTheirRegisters := by
  rintro s ⟨-, hcur, hidx, -⟩
  have hcur' : s.rxCur ≤ s.cap := hcur.trans (Nat.sub_le _ _)
  exact ⟨toNat_ofNat_idxWidth hcur', toNat_ofNat_idxWidth hidx⟩

/-- Settles O46: both cursors are 0 and both buffers empty. -/
theorem resetHasTheInvariant : Obligations.ResetHasTheInvariant :=
  ⟨by decide, Nat.zero_le _, Nat.zero_le _, wf_nil _, wf_nil _, rfl, rfl⟩

end Sys2Proof.Proofs

/-! ### The words to come and the earlier outputs are not read -/

namespace Sys2Proof.Proofs

open Sys2Proof Sys2Proof.Machine Sys2Proof.Laws

/-- `s` with other words to come and other outputs of the operation before: what no operation reads (10_state.md R30;
30_encoding.md R57). -/
def reframe (w : List Instant) (r : Option Res) (b : Option Byte) (s : State) : State :=
  { s with inputs := w, res := r, txOut := b }

variable (w : List Instant) (r : Option Res) (b : Option Byte)

/-- A reply overwrites the outputs, so that only the words to come are left of a reframing. -/
theorem reply_reframe (q : Res) (o : Option Byte) (s : State) :
    reply q o (reframe w r b s) = { reply q o s with inputs := w } := rfl

theorem readByte_reframe (sp : Space) (k : Nat) (s : State) : readByte sp k (reframe w r b s) = readByte sp k s := by
  cases sp <;> rfl

theorem afterRead_reframe (sp : Space) (k : Nat) (s : State) :
    afterRead sp k (reframe w r b s) = reframe w r b (afterRead sp k s) := by
  have hbuf : spaceBuf (reframe w r b s) sp = spaceBuf s sp := by cases sp <;> rfl
  cases h : memGet (spaceBuf s sp) k with
  | some c => rw [(readByte_defined h).2, (readByte_defined (hbuf ▸ h)).2]
  | none =>
    rw [(readByte_undef h).2, (readByte_undef (hbuf ▸ h)).2]
    cases sp <;> rfl

theorem transmit_reframe (c : Byte) (s : State) :
    transmit c (reframe w r b s) = reframe w r b (transmit c s) := by
  have hbusy : (reframe w r b s).txBusy = s.txBusy := rfl
  have hover : (reframe w r b s).fTxovr = s.fTxovr := rfl
  unfold transmit
  rw [hbusy, hover]
  split
  · rfl
  · split <;> rfl

theorem frameByte_reframe (c : Byte) (s : State) :
    frameByte c (reframe w r b s) = reframe w r b (frameByte c s) := by
  have hcur : (reframe w r b s).rxCur = s.rxCur := rfl
  have hcap : (reframe w r b s).cap = s.cap := rfl
  unfold frameByte
  rw [hcur, hcap]
  split
  · rfl
  · split <;> rfl

theorem drainStep_reframe (s : State) :
    drainStep (reframe w r b s) = { drainStep s with inputs := w } := by
  have hidx : (reframe w r b s).txIdx = s.txIdx := rfl
  have hcap : (reframe w r b s).cap = s.cap := rfl
  unfold drainStep
  rw [hidx, hcap, readByte_reframe, afterRead_reframe, transmit_reframe]
  split
  · split <;> rfl
  · rfl

/-- No operation reads the words to come or the outputs of the operation before. -/
theorem exec_reframe {i : Instr} {s t : State} (h : exec i s = .next t) :
    exec i (reframe w r b s) = .next { t with inputs := w } := by
  cases i with
  | rxb c =>
    obtain ⟨hlt, rfl⟩ := exec_rxb_eq_next.mp h
    exact exec_rxb_eq_next.mpr ⟨hlt, by rw [frameByte_reframe]; rfl⟩
  | txc =>
    obtain rfl := exec_txc_eq_next.mp h
    exact exec_txc_eq_next.mpr (drainStep_reframe w r b s).symm
  | txPrime =>
    obtain rfl := exec_txPrime_eq_next.mp h
    exact exec_txPrime_eq_next.mpr (drainStep_reframe w r b s).symm
  | rxRd idx =>
    obtain ⟨hlegal, rfl⟩ | ⟨hlegal, rfl⟩ := exec_rxRd_eq_next.mp h
    · exact exec_rxRd_eq_next.mpr (.inl ⟨hlegal, by rw [readByte_reframe, afterRead_reframe]; rfl⟩)
    · exact exec_rxRd_eq_next.mpr (.inr ⟨hlegal, rfl⟩)
  | txWr idx c =>
    obtain ⟨hlegal, rfl⟩ | ⟨hlegal, rfl⟩ := exec_txWr_eq_next.mp h
    · exact exec_txWr_eq_next.mpr (.inl ⟨hlegal, rfl⟩)
    · exact exec_txWr_eq_next.mpr (.inr ⟨hlegal, rfl⟩)
  | decDec off =>
    obtain ⟨hlegal, rfl⟩ | ⟨hlegal, rfl⟩ := exec_decDec_eq_next.mp h
    · exact exec_decDec_eq_next.mpr (.inl ⟨hlegal, rfl⟩)
    · exact exec_decDec_eq_next.mpr (.inr ⟨hlegal, rfl⟩)
  | decHex off =>
    obtain ⟨hlegal, rfl⟩ | ⟨hlegal, rfl⟩ := exec_decHex_eq_next.mp h
    · exact exec_decHex_eq_next.mpr (.inl ⟨hlegal, rfl⟩)
    · exact exec_decHex_eq_next.mpr (.inr ⟨hlegal, rfl⟩)
  | rdyRd | rdyClr | encDec | encHex | rst => cases h; rfl

variable {s t : State}

/-- With the words to come left alone, a reframing does not show in an operation's answer. -/
theorem exec_reframe_inputs {i : Instr} (h : exec i s = .next t) : exec i (reframe s.inputs r b s) = .next t := by
  obtain ⟨-, hinputs, -⟩ := exec_keeps_parameters h
  rw [exec_reframe _ _ _ h, ← hinputs]

theorem arrive_reframe (o : Offer) (i : Instr) (s : State) :
    arrive o i (reframe w r b s) = reframe w r b (arrive o i s) := by
  rcases arrive_cases o i s with ⟨hi, hj, h⟩ | ⟨hn, h⟩ <;> rw [h]
  · exact if_pos ⟨hi, hj⟩
  · exact if_neg hn

theorem serveWord_reframe_inputs {o : Offer} (h : serveWord o s = .next t) :
    serveWord o (reframe s.inputs r b s) = .next t := by
  obtain ⟨e, hd, rfl⟩ | ⟨i, hd, hx⟩ := serveWord_next_cases h
  · rw [serveWord_of_error hd]; rfl
  · rw [serveWord_of_ok hd, arrive_reframe, ← arrive_inputs o i s]
    exact exec_reframe_inputs r b hx

end Sys2Proof.Proofs

/-! ### The step as a relation -/

namespace Sys2Proof.Proofs

open Sys2Proof Sys2Proof.Machine Sys2Proof.Laws

variable {s t : State}

/-- `s` with other outputs of the step before. -/
def withOutput (out : StepOutput) (s : State) : State :=
  { s with res := out.res, txOut := out.txOut, served := out.served }

@[simp] theorem withOutput_inputs (out : StepOutput) (s : State) : (withOutput out s).inputs = s.inputs := rfl
@[simp] theorem withOutput_arbDraws (out : StepOutput) (s : State) : (withOutput out s).arbDraws = s.arbDraws := rfl

theorem withOutput_output (out : StepOutput) (s : State) : withOutput s.output (withOutput out s) = s := rfl

/-- The state from which `StepRel` takes its step is `s` without its outputs. -/
theorem assemble_without_output (s : State) :
    State.assemble s.params s.spec ⟨none, none, none⟩ = withOutput ⟨none, none, none⟩ s := rfl

/-- Taking a word sets the issuer, so that the result word and the byte are left of the earlier outputs. -/
theorem takeWord_withOutput (o : Offer) (now : Instant) (later : List Instant) (out : StepOutput) (s : State) :
    takeWord o now later (withOutput out s) =
      reframe (takeWord o now later s).inputs out.res out.txOut (takeWord o now later s) := rfl

/-- A step reads no output of the step before (30_encoding.md R57). -/
theorem step_withOutput (out : StepOutput) (h : step s = .next t) : step (withOutput out s) = .next t := by
  obtain ⟨hin, rfl⟩ | ⟨now, later, hin, hr, rfl⟩ | ⟨now, later, hin, hr, ho, rfl⟩ | ⟨now, later, o, hin, hr, ho, hw⟩ :=
    step_next_cases h
  · exact step_of_no_input hin
  · exact step_of_rst hin hr
  · exact step_of_no_offer hin hr ho
  · rw [step_of_offer (s := withOutput out s) hin hr ho, takeWord_withOutput]
    exact serveWord_reframe_inputs _ _ hw

/-- Every step is a step of the relation, with the parameters that the state carries. -/
theorem stepRel_of_step (h : step s = .next t) : StepRel s.params s.spec t.output t.spec :=
  ⟨t, step_withOutput _ h, rfl, rfl⟩

/-- Every step of the relation with the state's parameters is a step. -/
theorem step_of_stepRel {o : StepOutput} {c : SpecState} (h : StepRel s.params s.spec o c) :
    ∃ t, step s = .next t ∧ t.output = o ∧ t.spec = c := by
  obtain ⟨t, ht, hspec, hout⟩ := h
  rw [assemble_without_output] at ht
  exact ⟨t, withOutput_output _ s ▸ step_withOutput s.output ht, hout, hspec⟩

/-- The capacity is constant (10_state.md R30). -/
theorem step_keeps_cap (h : step s = .next t) : t.cap = s.cap := by
  obtain ⟨-, rfl⟩ | ⟨now, later, -, -, rfl⟩ | ⟨now, later, -, -, -, rfl⟩ | ⟨now, later, o, -, -, -, hw⟩ :=
    step_next_cases h
  · simp
  · simp
  · simp
  · simpa using (serveWord_keeps_cap_inputs hw).1

/-- Once a word of an instant is taken, the instant is over or fewer of its words are left, in their order. -/
theorem inputsAfter_cases {o : Offer} {now : Instant} (later : List Instant) (ho : o ∈ now.offers) :
    inputsAfter o now later = later ∨
      ∃ offers, offers.Sublist now.offers ∧ offers.length < now.offers.length ∧
        inputsAfter o now later = ⟨now.rst, offers⟩ :: later := by
  by_cases hempty : offersAfter o now.offers = []
  · exact .inl (if_pos hempty)
  · refine .inr ⟨offersAfter o now.offers, List.erase_sublist, ?_, if_neg hempty⟩
    have hpos : 0 < now.offers.length := List.length_pos_of_mem ho
    rw [offersAfter, List.length_erase_of_mem ho]
    omega

/-- What a step takes from the words to come: nothing where there is none, the first instant, or words of it. -/
theorem step_inputs_cases (h : step s = .next t) :
    s.inputs = [] ∧ t.inputs = [] ∨
      ∃ now later, s.inputs = now :: later ∧
        (t.inputs = later ∨
          ∃ offers, offers.Sublist now.offers ∧ offers.length < now.offers.length ∧
            t.inputs = ⟨now.rst, offers⟩ :: later) := by
  obtain ⟨hin, rfl⟩ | ⟨now, later, hin, -, rfl⟩ | ⟨now, later, hin, -, -, rfl⟩ | ⟨now, later, o, hin, -, ho, hw⟩ :=
    step_next_cases h
  · exact .inl ⟨hin, hin⟩
  · exact .inr ⟨now, later, hin, .inl rfl⟩
  · exact .inr ⟨now, later, hin, .inl rfl⟩
  · have hinputs : t.inputs = inputsAfter o now later := (serveWord_keeps_cap_inputs hw).2
    rw [hinputs]
    exact .inr ⟨now, later, hin, inputsAfter_cases later (chosenOffer_mem ho)⟩

/-- An operation does the same whatever words are to come. -/
theorem exec_inputs (w : List Instant) {i : Instr} (h : exec i s = .next t) :
    exec i { s with inputs := w } = .next { t with inputs := w } :=
  exec_reframe w s.res s.txOut h

/-- Settles O53: a step reads no earlier output, keeps the capacity and takes words from the first instant alone. -/
theorem stepIsARelationWithItsParameters : Obligations.StepIsARelationWithItsParameters :=
  ⟨fun _ _ => stepRel_of_step, fun _ _ _ => step_of_stepRel,
    fun _ _ h => ⟨step_keeps_cap h, step_inputs_cases h⟩, fun _ _ _ w => exec_inputs w⟩

end Sys2Proof.Proofs

/-! PROOFS. The family 20_memory.md: the word that a step takes from its instant and what it then runs (O6, O8), and the
decode of a line that holds `undef` bytes (O39). -/

/-! ### The word that a step serves -/

namespace Sys2Proof.Proofs

open Sys2Proof Sys2Proof.Machine Sys2Proof.Laws

/-- The peripheral's side of an arriving word, as one record update. -/
theorem arrive_eq (o : Offer) (i : Instr) (s : State) :
    arrive o i s = { s with txBusy := if i = .txc ∧ o.injected = false then false else s.txBusy } := by
  rcases arrive_cases o i s with ⟨hi, hj, h⟩ | ⟨hn, h⟩
  · rw [h, if_pos ⟨hi, hj⟩]; rfl
  · rw [h, if_neg hn]

/-- Settles O6: the word is taken, and decoding decides between the operation's rule and the refusal. -/
theorem stepRunsTheDecodedWord : Obligations.StepRunsTheDecodedWord := by
  intro s now later o hin hr ho
  refine ⟨fun i hd => ?_, fun e hd => ?_⟩
  · rw [step_of_offer hin hr ho, serveWord_of_ok hd, arrive_eq]; rfl
  · rw [step_of_offer hin hr ho, serveWord_of_error hd]; rfl

/-- The first word of a port stands after words of other ports alone. -/
theorem firstOn_eq_some_split {p : Port} {l : List Offer} {o : Offer} (h : firstOn p l = some o) :
    ∃ before after, l = before ++ o :: after ∧ ∀ q ∈ before, q.port ≠ o.port := by
  obtain ⟨hp, before, after, hl, hbefore⟩ := List.find?_eq_some_iff_append.mp h
  obtain rfl : o.port = p := by simpa using hp
  exact ⟨before, after, hl, fun q hq => by simpa using hbefore q hq⟩

/-- Each port's own order is kept: a word that is served is the first of its port (20_memory.md R41). -/
theorem chosenOffer_eq_some_split {l : List Offer} {n : Nat} {o : Offer} (h : chosenOffer l n = some o) :
    ∃ before after, l = before ++ o :: after ∧ ∀ q ∈ before, q.port ≠ o.port := by
  unfold chosenOffer at h
  split at h
  · simp at h
  · obtain rfl := Option.some.inj h
    exact ⟨[], [], rfl, by simp⟩
  · exact firstOn_eq_some_split h

/-- With the first word of a port taken, the words before and after it stay in their order. -/
theorem offersAfter_split {o : Offer} {before after : List Offer} (h : ∀ q ∈ before, q.port ≠ o.port) :
    offersAfter o (before ++ o :: after) = before ++ after := by
  have ho : o ∉ before := fun hmem => h o hmem rfl
  rw [offersAfter, List.erase_append_right _ ho, List.erase_cons_head]

/-- Settles O8: the word that `chosenOffer` picks splits its instant into the words before and after it. -/
theorem stepServesAPortsFirstWord : Obligations.StepServesAPortsFirstWord := by
  intro s now later hin hr hne
  obtain ⟨o, ho⟩ := chosenOffer_some (n := s.arbDraws) hne
  obtain ⟨before, after, hsplit, hfirst⟩ := chosenOffer_eq_some_split ho
  have hleft : offersAfter o now.offers = before ++ after := by rw [hsplit, offersAfter_split hfirst]
  refine ⟨o, before, after, hsplit, hfirst, ?_⟩
  rw [step_of_offer hin hr ho, takeWord, inputsAfter, hleft, hr]

end Sys2Proof.Proofs

/-! ### A decode over `undef` bytes -/

namespace Sys2Proof.Proofs

open Sys2Proof Sys2Proof.Machine Sys2Proof.Laws

/-- The content `m` with every `undef` byte below `n` given the value that `c` chooses for its index. -/
def fillUndef (c : Nat → Byte) (m : Memory) : Nat → Memory
  | 0 => m
  | n + 1 => memPut (fillUndef c m n) n ((memGet m n).getD (c n))

theorem memGet_fillUndef (c : Nat → Byte) (m : Memory) (n j : Nat) :
    memGet (fillUndef c m n) j = if j < n then some ((memGet m j).getD (c j)) else memGet m j := by
  induction n with
  | zero => simp [fillUndef]
  | succ n ih =>
    rw [fillUndef, memGet_memPut, ih]
    rcases Nat.lt_trichotomy j n with h | rfl | h
    · rw [if_neg h.ne, if_pos h, if_pos (h.trans n.lt_succ_self)]
    · rw [if_pos rfl, if_pos j.lt_succ_self]
    · rw [if_neg h.ne', if_neg h.not_gt, if_neg (by omega)]

theorem memGet_fillUndef_of_lt {j n : Nat} (c : Nat → Byte) (m : Memory) (h : j < n) :
    memGet (fillUndef c m n) j = some ((memGet m j).getD (c j)) := by
  rw [memGet_fillUndef, if_pos h]

/-- A choice touches no defined byte. -/
theorem memGet_fillUndef_of_defined {c : Nat → Byte} {m : Memory} {n j : Nat} {b : Byte} (h : memGet m j = some b) :
    memGet (fillUndef c m n) j = some b := by
  simp [memGet_fillUndef, h]

theorem contentLoop_succ_of_defined {fuel i : Nat} {m : Memory} {b : Byte} (h : memGet m i = some b) :
    contentLoop (fuel + 1) m i = if b = codeTerm then some [] else (contentLoop fuel m (i + 1)).map (b :: ·) := by
  simp [contentLoop, h]

/-- One round of the scan reads the byte at its index, drawn where it is `undef`, and goes on from some count of draws. -/
theorem scanLoop_succ_text (fuel : Nat) (m : Memory) (i d : Nat) :
    ∃ d', (scanLoop (fuel + 1) m i d []).1 =
      if (memGet m i).getD (Config.freeByte .rx d) = codeTerm then []
      else (memGet m i).getD (Config.freeByte .rx d) :: (scanLoop fuel m (i + 1) d' []).1 := by
  cases h : memGet m i with
  | some b =>
    refine ⟨d, ?_⟩
    simp only [scanLoop, h, Option.getD_some, List.nil_append]
    split
    · rfl
    · rw [scanLoop_acc]; rfl
  | none =>
    refine ⟨d + 1, ?_⟩
    simp only [scanLoop, h, Option.getD_none, List.nil_append]
    split
    · rfl
    · rw [scanLoop_acc]; rfl

/-- The bytes that a scan draws are a choice of values by index, because it passes each index once: any content that gives
the scanned indices these values holds the scan's text (20_memory.md R35). -/
theorem exists_choice_of_scanLoop (fuel : Nat) (m : Memory) (i d : Nat) :
    ∃ c : Nat → Byte, ∀ m' : Memory,
      (∀ j, i ≤ j → j < i + fuel → memGet m' j = some ((memGet m j).getD (c j))) →
      contentLoop fuel m' i = some (scanLoop fuel m i d []).1 := by
  induction fuel generalizing i d with
  | zero => exact ⟨fun _ => 0, fun _ _ => rfl⟩
  | succ fuel ih =>
    obtain ⟨d', htext⟩ := scanLoop_succ_text fuel m i d
    obtain ⟨c, hc⟩ := ih (i + 1) d'
    refine ⟨Function.update c i (Config.freeByte .rx d), fun m' hm' => ?_⟩
    have here : memGet m' i = some ((memGet m i).getD (Config.freeByte .rx d)) := by
      rw [hm' i le_rfl (by omega), Function.update_self]
    have rest : contentLoop fuel m' (i + 1) = some (scanLoop fuel m (i + 1) d' []).1 := by
      refine hc m' fun j hij hj => ?_
      rw [hm' j (by omega) (by omega), Function.update_of_ne (by omega)]
    rw [contentLoop_succ_of_defined here, rest, htext]
    split <;> rfl

/-- Settles O39: the RX buffer filled with the bytes that the scan draws is the content that both decoders read. -/
theorem decodeOverUndefIsSomeChoiceOfBytes : Obligations.DecodeOverUndefIsSomeChoiceOfBytes := by
  intro off s hoff
  have hlegal : indexLegal off s = true := decide_eq_true hoff
  obtain ⟨c, hc⟩ := exists_choice_of_scanLoop (s.cap - off.toNat) s.rxBuf off.toNat s.rxDraws
  refine ⟨fillUndef c s.rxBuf s.cap, (afterScan (indexOf off) s).rxDraws, fun _ _ => memGet_fillUndef_of_defined,
    fun j hj => by simp [memGet_fillUndef_of_lt c s.rxBuf hj], scanText (indexOf off) s, ?_, ?_, ?_⟩
  · exact hc _ fun j _ hj => memGet_fillUndef_of_lt c s.rxBuf (by omega)
  · exact exec_decDec_eq_next.mpr (.inl ⟨hlegal, rfl⟩)
  · exact exec_decHex_eq_next.mpr (.inl ⟨hlegal, rfl⟩)

end Sys2Proof.Proofs

/-! PROOFS. The family 30_encoding.md: decoding and encoding (O1, O2, O4), a word offered alone (O7), no step stops
(O47), waiting (O54), the result word (O51), and the scripts DRAIN and SEND (O29, O30). -/

/-! ### Decoding and encoding a word -/

namespace Sys2Proof.Proofs

open Sys2Proof Sys2Proof.Machine Sys2Proof.Laws

/-- Every row of the opcode map fixes the whole opcode (30_encoding.md R54). -/
theorem fieldOp_mask_of_mem {r : Row} (hr : r ∈ rows) : fieldOp r.mask = 0xFF := by
  simp only [rows, List.mem_cons, List.not_mem_nil, or_false] at hr
  rcases hr with rfl | rfl | rfl | rfl | rfl | rfl | rfl | rfl | rfl | rfl | rfl | rfl <;> rfl

/-- The twelve opcodes differ (30_encoding.md R54). -/
theorem opcodes_nodup : (rows.map fun r => fieldOp r.pattern).Nodup := by decide

/-- A match, field by field. -/
theorem rowMatches_fields (w : OpWord) (r : Row) : rowMatches w r = true ↔
    fieldOp w &&& fieldOp r.mask = fieldOp r.pattern ∧ fieldAux w &&& fieldAux r.mask = fieldAux r.pattern ∧
      fieldData w &&& fieldData r.mask = fieldData r.pattern := by
  conv_lhs => rw [← opWord_fields w, rowMatches_opWord]
  simp [and_assoc]

theorem fieldOp_of_rowMatches {w : OpWord} {r : Row} (hr : r ∈ rows) (hm : rowMatches w r = true) :
    fieldOp w = fieldOp r.pattern := by
  obtain ⟨hop, -⟩ := (rowMatches_fields w r).mp hm
  rw [fieldOp_mask_of_mem hr] at hop
  exact (BitVec.and_allOnes (x := fieldOp w)).symm.trans hop

/-- A word selects at most one row, since each row has an opcode of its own. -/
theorem row_eq_of_rowMatches {w : OpWord} {r q : Row} (hr : r ∈ rows) (hq : q ∈ rows) (hmr : rowMatches w r = true)
    (hmq : rowMatches w q = true) : r = q :=
  List.inj_on_of_nodup_map opcodes_nodup hr hq
    ((fieldOp_of_rowMatches hr hmr).symm.trans (fieldOp_of_rowMatches hq hmq))

/-- Settles O4: the two rows are one. -/
theorem wordSelectsAtMostOneRow : Obligations.WordSelectsAtMostOneRow := by
  intro w r q hr hq hmr hmq
  obtain rfl := row_eq_of_rowMatches hr hq hmr hmq
  exact ⟨rfl, rfl⟩

/-- What a word decodes to is what the row that it selects takes from it. -/
theorem decodeWord_eq_some_iff {w : OpWord} {i : Instr} :
    decodeWord w = some i ↔ ∃ r ∈ rows, rowMatches w r = true ∧ r.operands w = i := by
  unfold decodeWord rowOf
  rw [Option.map_eq_some_iff]
  constructor
  · rintro ⟨r, hfind, hi⟩
    exact ⟨r, List.mem_of_find?_eq_some hfind, List.find?_some hfind, hi⟩
  · rintro ⟨r, hr, hm, hi⟩
    obtain ⟨q, hfind⟩ := Option.isSome_iff_exists.mp (List.find?_isSome.mpr ⟨r, hr, hm⟩)
    obtain rfl := row_eq_of_rowMatches (List.mem_of_find?_eq_some hfind) hr (List.find?_some hfind) hm
    exact ⟨q, hfind, hi⟩

/-! A mask over a field fixes all of its bits, none, all but the low byte, or all but the low bit (30_encoding.md
R53). -/

/-- A field whose bits from `k` on must be zero is one that its low `k` bits give back. -/
theorem and_high_eq_zero_iff {n : Nat} (k : Nat) (x : BitVec n) :
    x &&& (BitVec.allOnes n <<< k) = 0 ↔ x = (x.setWidth k).setWidth n := by
  constructor <;> intro h <;> refine BitVec.eq_of_getLsbD_eq fun i hi => ?_
  · have hmasked := congrArg (BitVec.getLsbD · i) h
    by_cases hik : i < k
    · simp [hi, hik]
    · simpa [hi, hik, Nat.le_of_not_lt hik] using hmasked
  · have hkept := congrArg (BitVec.getLsbD · i) h
    by_cases hik : i < k
    · simp [hi, hik]
    · simpa [hi, hik, Nat.le_of_not_lt hik] using hkept

theorem ofBool_getLsbD_zero {n : Nat} (x : BitVec n) : BitVec.ofBool (x.getLsbD 0) = x.setWidth 1 := by
  refine BitVec.eq_of_getLsbD_eq fun i hi => ?_
  obtain rfl : i = 0 := by omega
  simp

theorem byte_and_full (x : Byte) : x &&& 0xFF#8 = x := BitVec.and_allOnes

theorem value_and_full (x : Value) : x &&& 0xFFFFFFFF#32 = x := BitVec.and_allOnes

theorem value_and_highBytes_eq_zero_iff (x : Value) : x &&& 0xFFFFFF00#32 = 0#32 ↔ x = (x.setWidth 8).setWidth 32 :=
  and_high_eq_zero_iff 8 x

theorem byte_and_highBits_eq_zero_iff (x : Byte) :
    x &&& 0xFE#8 = 0#8 ↔ x = (BitVec.ofBool (x.getLsbD 0)).setWidth 8 := by
  rw [ofBool_getLsbD_zero]
  exact and_high_eq_zero_iff 1 x

/-- A word selects a row exactly when it is the word of the operation that the row takes from it: field by field, the
mask fixes what the operands leave out (30_encoding.md R53, R54). -/
theorem rowMatches_iff_eq_encode {w : OpWord} {r : Row} (hr : r ∈ rows) :
    rowMatches w r = true ↔ w = encode (r.operands w) := by
  obtain ⟨op, aux, data, rfl⟩ : ∃ op aux data, opWord op aux data = w := ⟨_, _, _, opWord_fields w⟩
  simp only [rows, List.mem_cons, List.not_mem_nil, or_false] at hr
  rcases hr with rfl | rfl | rfl | rfl | rfl | rfl | rfl | rfl | rfl | rfl | rfl | rfl <;>
    simp only [rowMatches_opWord, encode, opWord_inj, fieldB_eq, fieldG_eq, fieldAux_opWord, fieldData_opWord] <;>
    simp [fieldOp, fieldAux, fieldData, byte_and_full, value_and_full, value_and_highBytes_eq_zero_iff,
      byte_and_highBits_eq_zero_iff, and_assoc]

/-- Every operation is one that some row takes from the operation's word. -/
theorem exists_row_operands_encode (i : Instr) : ∃ r ∈ rows, r.operands (encode i) = i := by
  cases i <;> simp [rows, encode, fieldB_eq, fieldG_eq]

theorem decodeWord_encode (i : Instr) : decodeWord (encode i) = some i := by
  obtain ⟨r, hr, hi⟩ := exists_row_operands_encode i
  exact decodeWord_eq_some_iff.mpr ⟨r, hr, (rowMatches_iff_eq_encode hr).mpr (by rw [hi]), hi⟩

theorem decode_encode (i : Instr) : decode i.issuer (encode i) = .ok i :=
  decode_ok_iff.mpr ⟨decodeWord_encode i, rfl⟩

/-- Settles O1. -/
theorem encodeThenDecodeGivesTheOperation : Obligations.EncodeThenDecodeGivesTheOperation := fun i =>
  ⟨decodeWord_encode i, decode_encode i⟩

/-- Settles O2: the word selects a row, and the row's match says that the word is the operation's. -/
theorem decodedWordIsTheOperationsOneWord : Obligations.DecodedWordIsTheOperationsOneWord := by
  intro w i h
  obtain ⟨r, hr, hm, rfl⟩ := decodeWord_eq_some_iff.mp h
  exact ((rowMatches_iff_eq_encode hr).mp hm).symm

end Sys2Proof.Proofs

/-! ### An operation's word offered alone -/

namespace Sys2Proof.Proofs

open Sys2Proof Sys2Proof.Machine Sys2Proof.Laws

theorem fieldOp_encode (i : Instr) : fieldOp (encode i) = opcodeOf i := by
  cases i <;> exact fieldOp_opWord _ _ _

/-- The port on which an operation's word is offered is its issuer's (30_encoding.md R62). -/
theorem portIssuer_offerOf_encode (i : Instr) : portIssuer (offerOf (encode i)).port = i.issuer := by
  rw [offerOf, fieldOp_encode]
  cases i <;> rfl

/-- The state in which an operation that is offered alone is performed: its issuer is recorded, and for TXC the
peripheral has cleared `tx_busy` (60_exceptions.md R129). -/
def arrived (i : Instr) (s : State) : State :=
  { s with served := some i.issuer, txBusy := if i = .txc then false else s.txBusy }

/-- A word that was offered alone leaves the inputs as they were before the offer. -/
theorem takeWord_offerWord (w : OpWord) (s : State) :
    takeWord (offerOf w) ⟨false, [offerOf w]⟩ s.inputs (offerWord w s) =
      { s with served := some (portIssuer (offerOf w).port) } := by
  simp [takeWord, inputsAfter, offersAfter, arbDrawsAfter, offerWord]

theorem step_offerWord_encode (i : Instr) (s : State) :
    step (offerWord (encode i) s) = exec i (arrived i s) := by
  have hd : decode (portIssuer (offerOf (encode i)).port) (offerOf (encode i)).word = .ok i := by
    rw [portIssuer_offerOf_encode]
    exact decode_encode i
  have harrive : arrive (offerOf (encode i)) i { s with served := some i.issuer } = arrived i s := by
    rw [arrive_eq]
    simp [arrived, offerOf]
  rw [step_of_offer (offerWord_inputs s (encode i)) rfl rfl, takeWord_offerWord, serveWord_of_ok hd,
    portIssuer_offerOf_encode, harrive]

/-- The word that `withFetchWord` is given is 48 bits wide. -/
theorem withFetchWord_toNat (w : OpWord) (s : State) : s.withFetchWord 48 w.toNat = offerWord w s := by
  rw [State.withFetchWord, Nat.mod_eq_of_lt w.isLt, BitVec.ofNat_toNat, BitVec.setWidth_eq]

/-- Settles O7. -/
theorem offeredWordRunsNext : Obligations.OfferedWordRunsNext := by
  intro s i
  rw [withFetchWord_toNat, step_offerWord_encode]
  rfl

/-- A script line whose operation answers is done. -/
theorem issue_of_exec {i : Instr} {r : Ran} {t : State} (h : exec i (arrived i r.state) = .next t) :
    issue i r = .done { r with state := t, results := r.results ++ t.res.toList } := by
  simp [issue, step_offerWord_encode, h]

end Sys2Proof.Proofs

/-! ### No step stops -/

namespace Sys2Proof.Proofs

open Sys2Proof Sys2Proof.Machine Sys2Proof.Laws

variable {s : State}

/-- Under the invariant the cursor is inside the buffer (10_state.md R22). -/
theorem rxCur_lt_cap_of_inv (h : BlockInv s) : s.rxCur < s.cap := by
  obtain ⟨⟨hcap, -⟩, hcur, -⟩ := h
  unfold Config.last at hcur
  omega

theorem exec_goes_on (i : Instr) (h : s.rxCur < s.cap) : ∃ t, exec i s = .next t := by
  rcases exec_cases i s with ht | ⟨b, -, houtside, -⟩
  · exact ht
  · exact absurd h (Nat.not_lt.mpr houtside)

theorem serveWord_goes_on (o : Offer) (h : s.rxCur < s.cap) : ∃ t, serveWord o s = .next t := by
  rcases serveWord_cases o s with ⟨e, -, hw⟩ | ⟨i, -, hw⟩
  · exact ⟨_, hw⟩
  · rw [hw, arrive_eq]
    exact exec_goes_on i h

/-- Settles O47: idle and the pin always answer, and so does a word where the cursor is inside the buffer. -/
theorem stepNeverStops : Obligations.StepNeverStops := by
  intro s hinv
  rcases fetch_cases s with ⟨hin, -⟩ | ⟨now, later, hin, hr, -⟩ | ⟨now, later, hin, hr, ho, -⟩ |
    ⟨now, later, o, hin, hr, ho, -⟩
  · exact ⟨_, step_of_no_input hin⟩
  · exact ⟨_, step_of_rst hin hr⟩
  · exact ⟨_, step_of_no_offer hin hr ho⟩
  · rw [step_of_offer hin hr ho]
    exact serveWord_goes_on o (rxCur_lt_cap_of_inv hinv)

end Sys2Proof.Proofs

/-! ### Waiting for a line -/

namespace Sys2Proof.Proofs

open Sys2Proof Sys2Proof.Machine Sys2Proof.Laws

/-- What RDY_RD shows in the state `s`. -/
def pollOutput (s : State) : StepOutput := ⟨some ⟨.ok, 0, readyData s⟩, none, some .host⟩

/-- A script line after RDY_RD: a result word more, and nothing changed but the outputs. -/
def polled (r : Ran) : Ran :=
  { r with
    state := withOutput (pollOutput r.state) r.state
    results := r.results ++ [⟨.ok, 0, readyData r.state⟩] }

theorem issue_rdyRd (r : Ran) : issue .rdyRd r = .done (polled r) := issue_of_exec rfl

/-- The low byte of RDY_RD's result is 1 exactly where the flag is (42_rx_framer.md R91). -/
theorem lastByte_polled (r : Ran) : lastByte (polled r).state = some 1 ↔ r.state.rxReady = true := by
  have hbyte : lastByte (polled r).state = some ((readyData r.state).extractLsb' 0 8) := rfl
  rw [hbyte, readyData]
  cases r.state.rxReady <;> decide

/-- One round of the wait: the pending words are served and the flag is read. -/
theorem runWaitRdy_cons {n : Nat} {r p : Ran} (h : runPending n r = .done p) (ns : List Nat) :
    runWaitRdy (n :: ns) r =
      if p.state.rxReady = true then .done { polled p with waits := ns } else runWaitRdy ns (polled p) := by
  rw [runWaitRdy, h, andThen_done, issue_rdyRd, andThen_done]
  exact if_congr (lastByte_polled p) rfl rfl

/-- A wait that is done has served its first pending words. -/
theorem runPending_of_runWaitRdy_done {n : Nat} {ns : List Nat} {r q : Ran} (h : runWaitRdy (n :: ns) r = .done q) :
    ∃ p, runPending n r = .done p := by
  rw [runWaitRdy] at h
  obtain ⟨p, hp, -⟩ := andThen_eq_done h
  exact ⟨p, hp⟩

/-- A line completes in time when it has, or when it does so after the next step. -/
theorem lineWillComplete_iff {s : State} :
    LineWillComplete s ↔ s.rxReady = true ∨ ∃ t, step s = .next t ∧ LineWillComplete t := by
  constructor
  · rintro ⟨n, r, hrun, hready⟩
    cases n with
    | zero => cases hrun; exact .inl hready
    | succ n =>
      obtain ⟨t, ht, hrest⟩ := runPending_succ_eq_done hrun
      exact .inr ⟨t, ht, n, r, hrest, hready⟩
  · rintro (hready | ⟨t, ht, n, r, hrun, hready⟩)
    · exact ⟨0, ⟨s, [], []⟩, rfl, hready⟩
    · refine ⟨n + 1, r, ?_, hready⟩
      rw [runPending]
      simp only [ht]
      exact hrun

/-- Whether a line completes does not depend on the outputs of the step before. -/
theorem lineWillComplete_of_withOutput {out : StepOutput} {s : State} (h : LineWillComplete (withOutput out s)) :
    LineWillComplete s := by
  rcases lineWillComplete_iff.mp h with hready | ⟨t, ht, hline⟩
  · exact lineWillComplete_iff.mpr (.inl hready)
  · refine lineWillComplete_iff.mpr (.inr ⟨t, ?_, hline⟩)
    exact withOutput_output out s ▸ step_withOutput s.output ht

theorem lineWillComplete_of_runPending {n : Nat} {r p : Ran} (h : runPending n r = .done p)
    (hline : LineWillComplete p.state) : LineWillComplete r.state := by
  induction n generalizing r with
  | zero =>
    rw [runPending_zero] at h
    cases h
    exact hline
  | succ n ih =>
    obtain ⟨t, ht, hrest⟩ := runPending_succ_eq_done h
    exact lineWillComplete_iff.mpr (.inr ⟨t, ht, ih hrest⟩)

/-- A wait that returns, however it is polled, has seen a line complete. -/
theorem lineWillComplete_of_runWaitRdy_done {polls : List Nat} {r q : Ran} (h : runWaitRdy polls r = .done q) :
    LineWillComplete r.state := by
  induction polls generalizing r with
  | nil => cases h
  | cons n ns ih =>
    obtain ⟨p, hp⟩ := runPending_of_runWaitRdy_done h
    refine lineWillComplete_of_runPending hp ?_
    rw [runWaitRdy_cons hp] at h
    split at h
    next hready => exact lineWillComplete_iff.mpr (.inl hready)
    next => exact lineWillComplete_of_withOutput (ih h)

/-- A poll between two steps leaves no trace in the state after the second. -/
theorem runPending_one_polled {r : Ran} {t : State} (ht : step r.state = .next t) :
    runPending 1 (polled r) = .done { polled r with state := t } := by
  have hstep : step (polled r).state = .next t := step_withOutput _ ht
  simp [runPending, hstep]

/-- A wait whose flag is 1 returns at its first poll, without serving a word. -/
theorem runWaitRdy_of_ready {r : Ran} (hready : r.state.rxReady = true) :
    ∃ q, runWaitRdy [0] r = .done q ∧ q.state.rxReady = true := by
  refine ⟨{ polled r with waits := [] }, ?_, hready⟩
  rw [runWaitRdy_cons (runPending_zero r), if_pos hready]

/-- Polled at once and after every step, a wait returns once the pending words have completed a line. -/
theorem runWaitRdy_returns {n : Nat} {r p : Ran} (h : runPending n ⟨r.state, [], []⟩ = .done p)
    (hready : p.state.rxReady = true) :
    ∃ k q, runWaitRdy (0 :: List.replicate k 1) r = .done q ∧ q.state.rxReady = true := by
  induction n generalizing r with
  | zero => cases h; exact ⟨0, runWaitRdy_of_ready hready⟩
  | succ n ih =>
    by_cases hnow : r.state.rxReady = true
    · exact ⟨0, runWaitRdy_of_ready hnow⟩
    · obtain ⟨t, ht, hrest⟩ := runPending_succ_eq_done h
      obtain ⟨k, q, hq, hqready⟩ := ih (r := { polled r with state := t }) hrest
      refine ⟨k + 1, q, ?_, hqready⟩
      rw [runWaitRdy_cons (runPending_zero r), if_neg hnow, List.replicate_succ, ← hq,
        runWaitRdy_cons (runPending_one_polled (r := r) ht), runWaitRdy_cons (runPending_zero _)]

/-- Settles O54: one round for the first part, and for the others the rounds along the pending words. -/
theorem waitReturnsExactlyWhenALineCompletes : Obligations.WaitReturnsExactlyWhenALineCompletes := by
  refine ⟨fun s n r hrun hready => ?_, fun s ⟨n, r, hrun, hready⟩ => runWaitRdy_returns hrun hready,
    fun s hnever polls r hdone => hnever (lineWillComplete_of_runWaitRdy_done hdone)⟩
  obtain ⟨hresults, -⟩ := runPending_frame hrun
  have hdata : readyData r.state = 1 := by rw [readyData, hready]; rfl
  rw [runWaitRdy_cons hrun, if_pos hready, polled, pollOutput, hresults, hdata]
  rfl

end Sys2Proof.Proofs

/-! ### The result word -/

namespace Sys2Proof.Proofs

open Sys2Proof Sys2Proof.Machine Sys2Proof.Laws

/-! The fields of the 104 bits (30_encoding.md R57). -/

theorem getLsbD_resWord (r : Res) (i : Nat) : (resWord r).getLsbD i =
    if i < 88 then r.data.getLsbD i else if i - 88 < 8 then r.len.getLsbD (i - 88)
    else (statusCode r.st).getLsbD (i - 88 - 8) :=
  (BitVec.getLsbD_append (x := statusCode r.st ++ r.len) (y := r.data)).trans
    (if_congr Iff.rfl rfl BitVec.getLsbD_append)

/-- Bits of `RES` that stay below bit 88 are bits of the data. -/
theorem resWord_extract_data (r : Res) {lo len : Nat} (h : lo + len ≤ 88) :
    (resWord r).extractLsb' lo len = r.data.extractLsb' lo len := by
  refine BitVec.eq_of_getLsbD_eq fun i hi => ?_
  rw [BitVec.getLsbD_extractLsb', BitVec.getLsbD_extractLsb', getLsbD_resWord, if_pos (by omega)]

theorem resWord_extract_len (r : Res) : (resWord r).extractLsb' 88 8 = r.len := by
  refine BitVec.eq_of_getLsbD_eq fun i hi => ?_
  rw [BitVec.getLsbD_extractLsb', getLsbD_resWord, if_neg (by omega), if_pos (by omega)]
  simp [hi]

theorem resWord_extract_st (r : Res) : (resWord r).extractLsb' 96 8 = statusCode r.st := by
  refine BitVec.eq_of_getLsbD_eq fun i hi => ?_
  rw [BitVec.getLsbD_extractLsb', getLsbD_resWord, if_neg (by omega), if_neg (by omega),
    show 96 + i - 88 - 8 = i by omega]
  simp [hi]

/-! A value fills the low 32 bits of the data and no others (30_encoding.md R57). -/

theorem valueData_high (v : Value) : (valueData v).extractLsb' 32 56 = 0 := by
  refine BitVec.eq_of_getLsbD_eq fun i hi => ?_
  simp [valueData]

theorem valueData_low (v : Value) : (valueData v).extractLsb' 0 32 = v := by
  refine BitVec.eq_of_getLsbD_eq fun i hi => ?_
  simp [valueData, hi, hi.trans (by decide : 32 < 88)]

/-! The decoders' loops, an equation for each kind of byte (41_numeric_decode.md R78, R80). -/

theorem decodeDecimalLoop_nil (val k : Nat) : decodeDecimalLoop [] val k = ⟨.ok, val, k⟩ := rfl

theorem decodeDecimalLoop_cons_of_none {c : Byte} (h : decval c = none) (cs : List Byte) (val k : Nat) :
    decodeDecimalLoop (c :: cs) val k = ⟨.malformed, 0, k⟩ := by
  change (match decval c with | none => _ | some d => _) = _
  rw [h]

theorem decodeDecimalLoop_cons_of_digit {c : Byte} {d : Nat} (h : decval c = some d) (cs : List Byte) (val k : Nat) :
    decodeDecimalLoop (c :: cs) val k =
      if 4294967295 < val * 10 + d then ⟨.overflow, 0, k⟩ else decodeDecimalLoop cs (val * 10 + d) (k + 1) := by
  change (match decval c with | none => _ | some d => _) = _
  rw [h]

theorem decodeHexLoop_nil (val k : Nat) : decodeHexLoop [] val k = ⟨.ok, val, k⟩ := rfl

theorem decodeHexLoop_cons_of_space (cs : List Byte) (val k : Nat) :
    decodeHexLoop (codeSp :: cs) val k = decodeHexLoop cs val (k + 1) := if_pos rfl

theorem decodeHexLoop_cons_of_none {c : Byte} (hc : c ≠ codeSp) (h : hexval c = none) (cs : List Byte) (val k : Nat) :
    decodeHexLoop (c :: cs) val k = ⟨.malformed, 0, k⟩ := by
  refine (if_neg hc).trans ?_
  rw [h]

theorem decodeHexLoop_cons_of_digit {c : Byte} {d : Nat} (hc : c ≠ codeSp) (h : hexval c = some d) (cs : List Byte)
    (val k : Nat) :
    decodeHexLoop (c :: cs) val k =
      if 0x10000000 ≤ val then ⟨.overflow, 0, k⟩ else decodeHexLoop cs (val <<< 4 ||| d) (k + 1) := by
  refine (if_neg hc).trans ?_
  rw [h]

/-! What a decoder returns fits 32 bits, because a digit is added after its overflow test (41_numeric_decode.md R79,
R80). -/

theorem decodeDecimalLoop_val_lt (text : List Byte) {val : Nat} (k : Nat) (h : val < 2 ^ 32) :
    (decodeDecimalLoop text val k).val < 2 ^ 32 := by
  induction text generalizing val k with
  | nil => rwa [decodeDecimalLoop_nil]
  | cons c cs ih =>
    cases hd : decval c with
    | none => rw [decodeDecimalLoop_cons_of_none hd]; exact Nat.two_pow_pos 32
    | some d =>
      rw [decodeDecimalLoop_cons_of_digit hd]
      split
      · exact Nat.two_pow_pos 32
      · exact ih _ (by omega)

theorem spanValue_lt {first count least d : Nat} {c : Byte} (h : spanValue first count least c = some d) :
    d < least + count := by
  unfold spanValue at h
  split at h
  · cases h; omega
  · cases h

theorem hexval_lt {c : Byte} {d : Nat} (h : hexval c = some d) : d < 16 := by
  have hspans : ((decval c).or ((spanValue 0x41 6 10 c).or (spanValue 0x61 6 10 c))) = some d := by
    simpa [hexval] using h
  rw [Option.or_eq_some_iff, Option.or_eq_some_iff] at hspans
  rcases hspans with h | ⟨-, h | ⟨-, h⟩⟩
  · exact (spanValue_lt h).trans (by decide)
  · exact spanValue_lt h
  · exact spanValue_lt h

theorem decodeHexLoop_val_lt (text : List Byte) {val : Nat} (k : Nat) (h : val < 2 ^ 32) :
    (decodeHexLoop text val k).val < 2 ^ 32 := by
  induction text generalizing val k with
  | nil => rwa [decodeHexLoop_nil]
  | cons c cs ih =>
    by_cases hc : c = codeSp
    · rw [hc, decodeHexLoop_cons_of_space]
      exact ih _ h
    · cases hd : hexval c with
      | none => rw [decodeHexLoop_cons_of_none hc hd]; exact Nat.two_pow_pos 32
      | some d =>
        rw [decodeHexLoop_cons_of_digit hc hd]
        split
        · exact Nat.two_pow_pos 32
        · have hroom : val <<< 4 < 2 ^ 32 := by rw [Nat.shiftLeft_eq]; omega
          exact ih _ (Nat.or_lt_two_pow hroom ((hexval_lt hd).trans (by decide)))

theorem decodeDecimal_val_lt (text : List Byte) : (decodeDecimal text).val < 2 ^ 32 :=
  decodeDecimalLoop_val_lt text 0 (Nat.two_pow_pos 32)

theorem decodeHex_val_lt (text : List Byte) : (decodeHex text).val < 2 ^ 32 :=
  decodeHexLoop_val_lt text 0 (Nat.two_pow_pos 32)

/-- The data of a decoder's result gives back the decoder's value. -/
theorem resOfDecoded_low {d : Decoded} (h : d.val < 2 ^ 32) :
    ((resOfDecoded d).data.extractLsb' 0 32).toNat = d.val := by
  rw [resOfDecoded, valueData_low, BitVec.toNat_ofNat, Nat.mod_eq_of_lt h]

/-- A decode operation answers with a decoder's result or with the refusal's, whose data is zero. -/
theorem exec_decode_data_high {off : Byte} {s t : State} {r : Res}
    (h : exec (.decDec off) s = .next t ∨ exec (.decHex off) s = .next t) (hr : t.res = some r) :
    r.data.extractLsb' 32 56 = 0 := by
  have hcases : (∃ d, r = resOfDecoded d) ∨ r = ⟨.index, 0, 0⟩ := by
    rcases h with h | h
    · obtain ⟨-, rfl⟩ | ⟨-, rfl⟩ := exec_decDec_eq_next.mp h
      · exact .inl ⟨_, (Option.some.inj hr).symm⟩
      · exact .inr (Option.some.inj hr).symm
    · obtain ⟨-, rfl⟩ | ⟨-, rfl⟩ := exec_decHex_eq_next.mp h
      · exact .inl ⟨_, (Option.some.inj hr).symm⟩
      · exact .inr (Option.some.inj hr).symm
  obtain ⟨d, rfl⟩ | rfl := hcases
  · exact valueData_high _
  · rfl

/-- An operation answers the same whatever outputs the step before showed, also where it stops. -/
theorem exec_ignores_outputs (i : Instr) (s : State) (r : Option Res) (b : Option Byte) :
    exec i { s with res := r, txOut := b } = exec i s := by
  rcases exec_cases i s with ⟨t, ht⟩ | ⟨c, rfl, houtside, hfault⟩
  · rw [ht]
    exact exec_reframe_inputs r b ht
  · rw [hfault]
    exact exec_rxb_of_cursor_outside houtside

/-- Settles O51: the word's fields, the decoders' values, and the outputs that no operation reads. -/
theorem resultWordIsAnOutputWithItsFields : Obligations.ResultWordIsAnOutputWithItsFields := by
  refine ⟨fun r => ⟨resWord_extract_st r, resWord_extract_len r, ?_, fun k hk => ?_⟩,
    fun off s t r => exec_decode_data_high, fun off s hoff => ?_, exec_ignores_outputs⟩
  · rw [resWord_extract_data r (by decide), BitVec.extractLsb'_eq_self]
  · exact (resWord_extract_data r (by omega)).symm
  · have hlegal : indexLegal off s = true := decide_eq_true hoff
    exact ⟨⟨_, _, exec_decDec_eq_next.mpr (.inl ⟨hlegal, rfl⟩), rfl, resOfDecoded_low (decodeDecimal_val_lt _)⟩,
      ⟨_, _, exec_decHex_eq_next.mpr (.inl ⟨hlegal, rfl⟩), rfl, resOfDecoded_low (decodeHex_val_lt _)⟩⟩

end Sys2Proof.Proofs

/-! ### DRAIN -/

namespace Sys2Proof.Proofs

open Sys2Proof Sys2Proof.Machine Sys2Proof.Laws

/-- A script line after TXC: one drain step, once the peripheral has cleared `tx_busy`. -/
def drained (r : Ran) : Ran :=
  { r with
    state := drainStep (arrived .txc r.state)
    results := r.results ++ (drainStep (arrived .txc r.state)).res.toList }

theorem issue_txc (r : Ran) : issue .txc r = .done (drained r) := issue_of_exec rfl

theorem drained_cap (r : Ran) : (drained r).state.cap = r.state.cap := by
  obtain ⟨-, -, -, -, hcap, -⟩ := drainStep_frame (arrived .txc r.state)
  exact hcap

theorem drained_results_length (r : Ran) : (drained r).results.length = r.results.length + 1 := by
  obtain ⟨res, hres⟩ := Option.isSome_iff_exists.mp (drainStep_res_isSome (arrived .txc r.state))
  simp [drained, hres]

/-- A drain step hands one byte over and advances, or hands none over and goes back to 0 (43_tx_drainer.md R104). -/
theorem drainStep_len_cases (s : State) :
    (s.txIdx < s.cap ∧ lastLen (drainStep s) = some 1 ∧ (drainStep s).txIdx = s.txIdx + 1) ∨
    (lastLen (drainStep s) = some 0 ∧ (drainStep s).txIdx = 0) := by
  rcases drainStep_cases s with ⟨hlt, -, h⟩ | ⟨-, -, h⟩ | ⟨-, h⟩ <;> rw [h]
  · exact .inl ⟨hlt, rfl, rfl⟩
  · exact .inr ⟨rfl, rfl⟩
  · exact .inr ⟨rfl, rfl⟩

/-- DRAIN goes on after a TXC that handed a byte over. -/
theorem runDrain_of_sent {fuel : Nat} {r : Ran} (h : lastLen (drained r).state = some 1) :
    runDrain (fuel + 1) r = runDrain fuel (drained r) := by
  rw [runDrain, issue_txc, andThen_done, h, if_neg (by decide)]

/-- DRAIN ends with the first TXC that handed none over. -/
theorem runDrain_of_stopped {fuel : Nat} {r : Ran} (h : lastLen (drained r).state = some 0) :
    runDrain (fuel + 1) r = .done (drained r) := by
  rw [runDrain, issue_txc, andThen_done, if_pos h]

/-- DRAIN ends once its rounds outnumber the bytes from the send index to the end of the buffer. -/
theorem runDrain_ends {fuel : Nat} {r : Ran} (h : r.state.cap - r.state.txIdx < fuel) :
    ∃ q, runDrain fuel r = .done q ∧ q.state.txIdx = 0 ∧ lastLen q.state = some 0 ∧
      q.results.length ≤ r.results.length + fuel := by
  induction fuel generalizing r with
  | zero => omega
  | succ fuel ih =>
    have hcap := drained_cap r
    have hcount := drained_results_length r
    obtain ⟨hlt, hsent, hidx⟩ | ⟨hstop, hidx⟩ :
        (r.state.txIdx < r.state.cap ∧ lastLen (drained r).state = some 1 ∧
          (drained r).state.txIdx = r.state.txIdx + 1) ∨
        (lastLen (drained r).state = some 0 ∧ (drained r).state.txIdx = 0) :=
      drainStep_len_cases (arrived .txc r.state)
    · obtain ⟨q, hq, hidle, hlast, hbound⟩ := ih (r := drained r) (by omega)
      exact ⟨q, (runDrain_of_sent hsent).trans hq, hidle, hlast, by omega⟩
    · exact ⟨drained r, runDrain_of_stopped hstop, hidx, hstop, by omega⟩

/-- Settles O29: `CAP + 1` rounds outnumber the bytes of the buffer. -/
theorem drainScriptAlwaysEnds : Obligations.DrainScriptAlwaysEnds := by
  intro s
  obtain ⟨q, hq, hidx, hlast, hcount⟩ :=
    runDrain_ends (r := ⟨s, [], []⟩) (Nat.lt_succ_of_le (Nat.sub_le s.cap s.txIdx))
  exact ⟨q, hq, decide_eq_true hidx, hlast, by simpa using hcount⟩

end Sys2Proof.Proofs

/-! ### What a drain has yet to send -/

namespace Sys2Proof.Proofs

open Sys2Proof Sys2Proof.Machine Sys2Proof.Laws

variable {s : State}

/-- The bytes that a drain has yet to send: the content of the TX buffer from the send index on. At index 0 it is the
whole message, `txMessage` (20_memory.md R50). -/
def toSend (s : State) : Option (List Byte) := contentLoop (s.cap - s.txIdx) s.txBuf s.txIdx

theorem toSend_of_txIdx_zero (h : s.txIdx = 0) : toSend s = txMessage s := by
  rw [toSend, h]
  rfl

/-- What a content that is some text begins with: a sentinel and no text, or the text's first byte and the rest. -/
theorem contentLoop_succ_eq_some {fuel i : Nat} {m : Memory} {l : List Byte} (h : contentLoop (fuel + 1) m i = some l) :
    (memGet m i = some codeTerm ∧ l = []) ∨
    (∃ b rest, memGet m i = some b ∧ b ≠ codeTerm ∧ contentLoop fuel m (i + 1) = some rest ∧ l = b :: rest) := by
  cases hb : memGet m i with
  | none => simp [contentLoop, hb] at h
  | some b =>
    rw [contentLoop_succ_of_defined hb] at h
    split at h
    next hterm => cases h; exact .inl ⟨by rw [hterm], rfl⟩
    next hterm =>
      obtain ⟨rest, hrest, rfl⟩ := Option.map_eq_some_iff.mp h
      exact .inr ⟨b, rest, rfl, hterm, hrest, rfl⟩

theorem drainStep_at_bound (h : s.cap ≤ s.txIdx) : drainStep s = reply resOk none (setTxIdx 0 s) :=
  if_neg (Nat.not_lt.mpr h)

theorem drainStep_of_defined {b : Byte} (hlt : s.txIdx < s.cap) (hb : memGet s.txBuf s.txIdx = some b) :
    drainStep s = if b ≠ codeTerm then reply (resOfByte b) (some b) (setTxIdx (s.txIdx + 1) (transmit b s))
      else reply resOk none (setTxIdx 0 s) := by
  obtain ⟨hread, hafter⟩ := readByte_defined (sp := .tx) (s := s) hb
  rw [drainStep, if_pos hlt, hread, hafter]

/-- A drain step with something defined to send: at its end it stops, and before it hands the next byte over. -/
theorem drainStep_of_toSend {l : List Byte} (h : toSend s = some l) :
    (l = [] ∧ drainStep s = reply resOk none (setTxIdx 0 s)) ∨
    (∃ b rest, l = b :: rest ∧ toSend (drainStep s) = some rest ∧
      drainStep s = reply (resOfByte b) (some b) (setTxIdx (s.txIdx + 1) (transmit b s))) := by
  by_cases hlt : s.txIdx < s.cap
  · have hfuel : s.cap - s.txIdx = s.cap - (s.txIdx + 1) + 1 := by omega
    rw [toSend, hfuel] at h
    obtain ⟨hb, rfl⟩ | ⟨b, rest, hb, hterm, hrest, rfl⟩ := contentLoop_succ_eq_some h
    · exact .inl ⟨rfl, by rw [drainStep_of_defined hlt hb, if_neg (by simp)]⟩
    · have hstep := (drainStep_of_defined hlt hb).trans (if_pos hterm)
      refine .inr ⟨b, rest, rfl, ?_, hstep⟩
      rw [hstep]
      simpa [toSend] using hrest
  · have hfuel : s.cap - s.txIdx = 0 := by omega
    rw [toSend, hfuel] at h
    cases h
    exact .inl ⟨rfl, drainStep_at_bound (Nat.le_of_not_lt hlt)⟩

/-- What has been sent and what is yet to send make up `wire`, and no byte was lost to an overrun. -/
def SendsUpTo (wire : List Byte) (l : List Byte) (s : State) : Prop :=
  toSend s = some l ∧ s.wireTx ++ l = wire ∧ s.fTxovr = false

/-- A drain step of an idle peripheral puts the next byte on the wire, or stops where all of it is sent. -/
theorem drainStep_of_sendsUpTo {wire l : List Byte} (hidle : s.txBusy = false) (h : SendsUpTo wire l s) :
    (l = [] ∧ drainStep s = reply resOk none (setTxIdx 0 s)) ∨
    (∃ b rest, l = b :: rest ∧ lastLen (drainStep s) = some 1 ∧ SendsUpTo wire rest (drainStep s)) := by
  obtain ⟨hsend, rfl, hover⟩ := h
  obtain hstop | ⟨b, rest, rfl, hrest, hstep⟩ := drainStep_of_toSend hsend
  · exact .inl hstop
  · have hbusy : transmit b s = { s with txBusy := true, wireTx := s.wireTx ++ [b] } := by
      simp [transmit, hidle, hover]
    refine .inr ⟨b, rest, rfl, ?_, hrest, ?_⟩
    · rw [hstep]; rfl
    · rw [hstep, hbusy]; simp [hover]

/-- DRAIN sends what is yet to send and comes to rest, for any number of rounds above its length. -/
theorem runDrain_sends {wire l : List Byte} {fuel : Nat} {r : Ran} (h : SendsUpTo wire l r.state)
    (hfuel : l.length < fuel) :
    ∃ q, runDrain fuel r = .done q ∧ q.state.wireTx = wire ∧ resting q.state = true ∧ q.state.fTxovr = false := by
  induction fuel generalizing l r with
  | zero => omega
  | succ fuel ih =>
    obtain ⟨rfl, hstop⟩ | ⟨b, rest, rfl, hsent, hrest⟩ :=
      drainStep_of_sendsUpTo (s := arrived .txc r.state) rfl h
    · obtain ⟨-, hwire, hover⟩ := h
      have hstate : (drained r).state = reply resOk none (setTxIdx 0 (arrived .txc r.state)) := hstop
      have hlen : lastLen (drained r).state = some 0 := by rw [hstate]; rfl
      refine ⟨drained r, runDrain_of_stopped hlen, ?_, ?_, ?_⟩ <;> rw [hstate]
      · rwa [List.append_nil] at hwire
      · rfl
      · exact hover
    · obtain ⟨q, hq, hend⟩ := ih (r := drained r) hrest (by simpa using hfuel)
      exact ⟨q, (runDrain_of_sent hsent).trans hq, hend⟩

end Sys2Proof.Proofs

/-! ### SEND, then DRAIN -/

namespace Sys2Proof.Proofs

open Sys2Proof Sys2Proof.Machine Sys2Proof.Laws

theorem issueAll_cons {i : Instr} {r q : Ran} (h : issue i r = .done q) (is : List Instr) :
    issueAll (i :: is) r = issueAll is q := by
  rw [issueAll, h, andThen_done]

theorem issueAll_append {is js : List Instr} {r q : Ran} (h : issueAll is r = .done q) :
    issueAll (is ++ js) r = issueAll js q := by
  induction is generalizing r with
  | nil => cases h; rfl
  | cons i is ih =>
    obtain ⟨p, hp, hrest⟩ := andThen_eq_done h
    rw [List.cons_append, issueAll_cons hp, ih hrest]

/-- TX_WR as a script line stores its byte and changes nothing else but the outputs. -/
theorem issue_txWr {i : Nat} {r : Ran} (b : Byte) (hcap : r.state.cap ≤ 255) (hi : i < r.state.cap) :
    ∃ q out, issue (.txWr (BitVec.ofNat 8 i) b) r = .done q ∧
      q.state = withOutput out { r.state with txBuf := memPut r.state.txBuf i b } := by
  have hidx : indexOf (BitVec.ofNat 8 i) = i := Nat.mod_eq_of_lt (by omega)
  have hlegal : indexLegal (BitVec.ofNat 8 i) (arrived (.txWr (BitVec.ofNat 8 i) b) r.state) = true :=
    decide_eq_true (by rw [hidx]; exact hi)
  refine ⟨_, ⟨some resOk, none, some .host⟩, issue_of_exec (exec_txWr_eq_next.mpr (.inl ⟨hlegal, rfl⟩)), ?_⟩
  rw [hidx]
  rfl

/-- The writes of SEND from index `i` on leave the text there and the bytes below `i` alone. -/
theorem issueAll_writesFrom {text : List Byte} {i : Nat} {r : Ran} (hcap : r.state.cap ≤ 255)
    (hfits : i + text.length < r.state.cap) (hnul : ∀ b ∈ text, b ≠ codeTerm) :
    ∃ q m out, issueAll (writesFrom i (text ++ [codeTerm])) r = .done q ∧
      q.state = withOutput out { r.state with txBuf := m } ∧
      contentLoop (r.state.cap - i) m i = some text ∧ ∀ j < i, memGet m j = memGet r.state.txBuf j := by
  induction text generalizing i r with
  | nil =>
    obtain ⟨q, out, hissue, hstate⟩ := issue_txWr codeTerm hcap (i := i) (by simpa using hfits)
    refine ⟨q, _, out, issueAll_cons hissue [], hstate, ?_, fun j hj => memGet_memPut_other _ _ (by omega)⟩
    rw [show r.state.cap - i = r.state.cap - (i + 1) + 1 by simp at hfits; omega,
      contentLoop_succ_of_defined (memGet_memPut_same _ _ _), if_pos rfl]
  | cons b text ih =>
    rw [List.length_cons] at hfits
    obtain ⟨p, out, hissue, hp⟩ := issue_txWr b hcap (i := i) (by omega)
    have hpcap : p.state.cap = r.state.cap := by rw [hp]; rfl
    obtain ⟨q, m, out', hrest, hq, hcontent, hbelow⟩ := ih (i := i + 1) (r := p) (by omega) (by omega)
      fun c hc => hnul c (List.mem_cons_of_mem b hc)
    have hbuf : p.state.txBuf = memPut r.state.txBuf i b := by rw [hp]; rfl
    have hhere : memGet m i = some b := by rw [hbelow i i.lt_succ_self, hbuf, memGet_memPut_same]
    refine ⟨q, m, out', (issueAll_cons hissue _).trans hrest, by rw [hq, hp]; rfl, ?_, fun j hj => ?_⟩
    · rw [hpcap] at hcontent
      rw [show r.state.cap - i = r.state.cap - (i + 1) + 1 by omega, contentLoop_succ_of_defined hhere,
        if_neg (hnul b List.mem_cons_self), hcontent]
      rfl
    · rw [hbelow j (by omega), hbuf, memGet_memPut_other _ _ (by omega)]

/-- TX_PRIME at index 0 begins the drain: the first byte is sent, or there was none, and the rest is yet to send. -/
theorem drainStep_begins {s : State} {wire l : List Byte} (hidx : s.txIdx = 0) (hidle : s.txBusy = false)
    (h : SendsUpTo wire l s) : ∃ rest, rest.length ≤ l.length ∧ SendsUpTo wire rest (drainStep s) := by
  obtain ⟨rfl, hstop⟩ | ⟨b, rest, rfl, -, hrest⟩ := drainStep_of_sendsUpTo hidle h
  · refine ⟨[], le_rfl, ?_⟩
    rw [hstop]
    obtain ⟨hsend, hwire, hover⟩ := h
    rw [toSend, hidx] at hsend
    exact ⟨hsend, hwire, hover⟩
  · exact ⟨rest, Nat.le_succ _, hrest⟩

/-- SEND leaves part of the text on the wire and the rest yet to send. -/
theorem runItem_send {text : List Byte} {r : Ran} (hcap : Config.LegalCap r.state.cap)
    (hfits : text.length ≤ r.state.cap - 1) (hnul : ∀ b ∈ text, b ≠ codeTerm) (hidx : r.state.txIdx = 0)
    (hidle : r.state.txBusy = false) (hover : r.state.fTxovr = false) :
    ∃ q rest, runItem (.send text) r = .done q ∧ q.state.cap = r.state.cap ∧ rest.length ≤ text.length ∧
      SendsUpTo (r.state.wireTx ++ text) rest q.state := by
  obtain ⟨hlow, hhigh⟩ := hcap
  obtain ⟨p, m, out, hwrites, hp, hcontent, -⟩ :=
    issueAll_writesFrom (i := 0) (r := r) hhigh (by omega) hnul
  have hready : SendsUpTo (r.state.wireTx ++ text) text (arrived .txPrime p.state) := by
    rw [hp]
    refine ⟨(toSend_of_txIdx_zero ?_).trans hcontent, rfl, hover⟩
    exact hidx
  obtain ⟨rest, hlen, hrest⟩ := drainStep_begins (by rw [hp]; exact hidx) (by rw [hp]; exact hidle) hready
  have hpcap : p.state.cap = r.state.cap := by rw [hp]; rfl
  obtain ⟨-, -, -, -, hframe, -⟩ := drainStep_frame (arrived .txPrime p.state)
  have hprime : issue .txPrime p = .done _ := issue_of_exec rfl
  have hsend : runItem (.send text) r = issueAll (writesFrom 0 (text ++ [codeTerm]) ++ [.txPrime]) r := by
    rw [runItem, expandSend, if_pos hfits]
  exact ⟨_, rest, hsend.trans ((issueAll_append hwrites).trans (issueAll_cons hprime [])),
    hframe.trans hpcap, hlen, hrest⟩

/-- Settles O30: SEND begins the drain of the text, and DRAIN sends what is yet to send. -/
theorem sendThenDrainPutsTheTextOnTheWire : Obligations.SendThenDrainPutsTheTextOnTheWire := by
  intro s text hcap hfits hnul hidx hidle hover
  obtain ⟨p, rest, hsend, hpcap, hlen, hrest⟩ :=
    runItem_send (r := ⟨s, [], []⟩) hcap hfits hnul hidx hidle hover
  obtain ⟨q, hdrain, hend⟩ := runDrain_sends (fuel := p.state.cap + 1) hrest (by simp only at hpcap; omega)
  refine ⟨q, ?_, hend⟩
  rw [runScript, hsend, andThen_done, runScript, runItem, hdrain]
  rfl

end Sys2Proof.Proofs

/-! PROOFS. The family 40_numeric_encode.md: the example words (O3), the digit characters (O31), the sizes of the
numeric text (O34), what ENC_DEC and ENC_HEX answer (O32, O33), and decoding what was encoded (O40). -/

/-! ### The example words -/

namespace Sys2Proof.Proofs

open Sys2Proof Sys2Proof.Machine Sys2Proof.Laws

/-- The table's word of an operation is its operation word as a number. -/
theorem decodeTableWord_encode (i : Instr) : decodeTableWord 48 (encode i).toNat = some i := by
  rw [decodeTableWord, if_pos ⟨le_rfl, (encode i).isLt⟩, BitVec.ofNat_toNat, BitVec.setWidth_eq, decodeWord_encode]

/-- Settles O3: each word is the encoding of its operation. -/
theorem exampleWordsDecode : Obligations.ExampleWordsDecode :=
  ⟨decodeTableWord_encode (.rxb 0x41), decodeTableWord_encode .txc, decodeTableWord_encode (.rxRd 2),
    decodeTableWord_encode (.txWr 80 0x78), decodeTableWord_encode (.encDec 42),
    decodeTableWord_encode (.encHex 0x12345678 true), decodeTableWord_encode (.decDec 7), decodeTableWord_encode .rst⟩

end Sys2Proof.Proofs

/-! ### The digit characters -/

namespace Sys2Proof.Proofs

open Sys2Proof Sys2Proof.Machine Sys2Proof.Laws

theorem decdigit_toNat {d : Nat} (h : d ≤ 9) : (decdigit d).toNat = 0x30 + d := by
  simp only [decdigit, BitVec.toNat_add, BitVec.toNat_ofNat, BitVec.reduceToNat]
  omega

theorem hexdigit_of_le_nine {n : Nat} (h : n ≤ 9) : hexdigit n = decdigit n := if_pos h

theorem hexdigit_toNat_of_letter {n : Nat} (hlow : 10 ≤ n) (hhigh : n ≤ 15) :
    (hexdigit n).toNat = 0x41 + (n - 10) := by
  simp only [hexdigit, if_neg (Nat.not_le.mpr hlow), BitVec.toNat_add, BitVec.toNat_ofNat, BitVec.reduceToNat]
  omega

/-- A hexadecimal digit is a decimal one or a letter 'A' to 'F'. -/
theorem hexdigit_toNat_range {n : Nat} (h : n ≤ 15) :
    0x30 ≤ (hexdigit n).toNat ∧ (hexdigit n).toNat ≤ 0x39 ∨ 0x41 ≤ (hexdigit n).toNat ∧ (hexdigit n).toNat ≤ 0x46 := by
  rcases Nat.lt_or_ge 9 n with hletter | hdigit
  · rw [hexdigit_toNat_of_letter hletter h]
    omega
  · rw [hexdigit_of_le_nine hdigit, decdigit_toNat hdigit]
    omega

theorem hexdigit_ne_space {n : Nat} (h : n ≤ 15) : hexdigit n ≠ codeSp := by
  intro heq
  have hrange := hexdigit_toNat_range h
  rw [heq, show codeSp.toNat = 0x20 from rfl] at hrange
  omega

/-! A digit's character reads back as the digit (41_numeric_decode.md R77). -/

theorem spanValue_of_toNat {first count j : Nat} (least : Nat) {c : Byte} (hc : c.toNat = first + j) (hj : j < count) :
    spanValue first count least c = some (least + j) := by
  rw [spanValue, hc, Nat.add_sub_cancel_left, if_pos ⟨hj, Nat.le_add_right first j⟩]

theorem spanValue_of_ge {first count least : Nat} {c : Byte} (h : first + count ≤ c.toNat) :
    spanValue first count least c = none := if_neg (by omega)

theorem decval_decdigit {d : Nat} (h : d ≤ 9) : decval (decdigit d) = some d := by
  rw [decval, spanValue_of_toNat 0 (decdigit_toNat h) (by omega), Nat.zero_add]

theorem hexval_hexdigit {n : Nat} (h : n ≤ 15) : hexval (hexdigit n) = some n := by
  rcases Nat.lt_or_ge 9 n with hletter | hdigit
  · have hcode := hexdigit_toNat_of_letter hletter h
    have hdec : decval (hexdigit n) = none := spanValue_of_ge (by omega)
    rw [hexval, hdec, spanValue_of_toNat 10 hcode (by omega), Nat.add_sub_cancel' hletter]
    rfl
  · rw [hexval, hexdigit_of_le_nine hdigit, decval_decdigit hdigit]
    rfl

end Sys2Proof.Proofs

/-! ### The decimal text -/

namespace Sys2Proof.Proofs

open Sys2Proof Sys2Proof.Machine Sys2Proof.Laws

/-- The digits of a decimal text, least significant first: those of the number, and one digit 0 for 0. -/
def decimalDigits (n : Nat) : List Nat := if n = 0 then [0] else Nat.digits 10 n

theorem le_nine_of_mem_decimalDigits {n d : Nat} (h : d ∈ decimalDigits n) : d ≤ 9 := by
  unfold decimalDigits at h
  split at h
  · rw [List.mem_singleton.mp h]
    exact Nat.zero_le 9
  · exact Nat.le_of_lt_succ (Nat.digits_lt_base (by decide) h)

theorem ofDigits_decimalDigits (n : Nat) : Nat.ofDigits 10 (decimalDigits n) = n := by
  unfold decimalDigits
  split
  · next hzero => rw [hzero, Nat.ofDigits_singleton]
  · exact Nat.ofDigits_digits 10 n

theorem decimalDigits_ne_nil (n : Nat) : decimalDigits n ≠ [] := by
  unfold decimalDigits
  split
  · exact List.cons_ne_nil 0 []
  · next hne => exact Nat.digits_ne_nil_iff_ne_zero.mpr hne

theorem length_decimalDigits_le {n : Nat} (h : n < 10 ^ 10) : (decimalDigits n).length ≤ 10 := by
  unfold decimalDigits
  split
  · exact Nat.le_add_left 1 9
  · exact (Nat.digits_length_le_iff (by decide) n).mpr h

/-- No digit 0 leads, but in the text of 0. -/
theorem decimalDigits_no_leading_zero (n : Nat) :
    decimalDigits n = [0] ∨ (decimalDigits n).getLast (decimalDigits_ne_nil n) ≠ 0 := by
  by_cases hn : n = 0
  · exact .inl (if_pos hn)
  · right
    simp only [decimalDigits, if_neg hn]
    exact Nat.getLast_digit_ne_zero 10 hn

/-- The loop of `encode_decimal` appends the digits of its number, where it has rounds for all of them. -/
theorem encodeDecimalLoop_eq {fuel v : Nat} (s : List Byte) (h : v < 10 ^ fuel) :
    encodeDecimalLoop fuel v s = s ++ (Nat.digits 10 v).map decdigit := by
  induction fuel generalizing v s with
  | zero =>
    obtain rfl : v = 0 := Nat.lt_one_iff.mp h
    rw [encodeDecimalLoop, Nat.digits_zero, List.map_nil, List.append_nil]
  | succ fuel ih =>
    rw [encodeDecimalLoop]
    split
    · next hpos =>
      rw [ih _ (Nat.div_lt_of_lt_mul (by rwa [← Nat.pow_succ'])), Nat.digits_def' (by decide) hpos,
        List.map_cons, List.append_assoc, List.singleton_append]
    · next hzero =>
      rw [Nat.eq_zero_of_not_pos hzero, Nat.digits_zero, List.map_nil, List.append_nil]

theorem toNat_lt_ten_pow (v : Value) : v.toNat < 10 ^ 10 := v.isLt.trans (by decide)

theorem encodeDecimal_eq (v : Value) : encodeDecimal v = (decimalDigits v.toNat).reverse.map decdigit := by
  unfold encodeDecimal
  split
  · next hzero =>
    rw [hzero]
    rfl
  · next hne =>
    have hnat : v.toNat ≠ 0 := fun hzero => hne (BitVec.eq_of_toNat_eq hzero)
    rw [encodeDecimalLoop_eq [] (toNat_lt_ten_pow v), decimalDigits, if_neg hnat, List.nil_append, List.map_reverse]

theorem mem_encodeDecimal {v : Value} {c : Byte} (h : c ∈ encodeDecimal v) : ∃ d ≤ 9, c = decdigit d := by
  rw [encodeDecimal_eq, List.mem_map] at h
  obtain ⟨d, hd, rfl⟩ := h
  exact ⟨d, le_nine_of_mem_decimalDigits (List.mem_reverse.mp hd), rfl⟩

theorem mem_encodeDecimal_toNat {v : Value} {c : Byte} (h : c ∈ encodeDecimal v) :
    0x30 ≤ c.toNat ∧ c.toNat ≤ 0x39 := by
  obtain ⟨d, hd, rfl⟩ := mem_encodeDecimal h
  rw [decdigit_toNat hd]
  omega

theorem length_encodeDecimal (v : Value) : (encodeDecimal v).length = (decimalDigits v.toNat).length := by
  rw [encodeDecimal_eq, List.length_map, List.length_reverse]

theorem one_le_length_encodeDecimal (v : Value) : 1 ≤ (encodeDecimal v).length := by
  rw [length_encodeDecimal]
  exact List.length_pos_of_ne_nil (decimalDigits_ne_nil v.toNat)

theorem length_encodeDecimal_le (v : Value) : (encodeDecimal v).length ≤ 10 := by
  rw [length_encodeDecimal]
  exact length_decimalDigits_le (toNat_lt_ten_pow v)

theorem eq_zero_of_decdigit {d : Nat} (hd : d ≤ 9) (h : decdigit d = 0x30) : d = 0 := by
  have hcode := decdigit_toNat hd
  rw [h, show (0x30 : Byte).toNat = 0x30 from rfl] at hcode
  omega

/-- The text is the shortest: '0' leads only the text of 0 (40_numeric_encode.md R70). -/
theorem encodeDecimal_no_leading_zero (v : Value) : encodeDecimal v = [0x30] ∨ (encodeDecimal v).head? ≠ some 0x30 := by
  have hne := decimalDigits_ne_nil v.toNat
  rw [encodeDecimal_eq]
  rcases decimalDigits_no_leading_zero v.toNat with hzero | hlead
  · rw [hzero]
    exact .inl rfl
  · right
    rw [List.head?_map, List.head?_reverse, List.getLast?_eq_some_getLast hne, Option.map_some]
    intro heq
    exact hlead (eq_zero_of_decdigit (le_nine_of_mem_decimalDigits (List.getLast_mem hne)) (Option.some.inj heq))

end Sys2Proof.Proofs

/-! ### The hexadecimal text -/

namespace Sys2Proof.Proofs

open Sys2Proof Sys2Proof.Machine Sys2Proof.Laws

/-- The four hexadecimal digits of a 16-bit number, most significant first (40_numeric_encode.md R71). -/
def nibbles (h : BitVec 16) : List Nat :=
  [(h.extractLsb' 12 4).toNat, (h.extractLsb' 8 4).toNat, (h.extractLsb' 4 4).toNat, (h.extractLsb' 0 4).toNat]

theorem quad_eq (h : BitVec 16) : quad h = (nibbles h).map hexdigit := rfl

theorem length_quad (h : BitVec 16) : (quad h).length = 4 := rfl

theorem le_fifteen_of_mem_nibbles {h : BitVec 16} {n : Nat} (hn : n ∈ nibbles h) : n ≤ 15 := by
  simp only [nibbles, List.mem_cons, List.not_mem_nil, or_false] at hn
  rcases hn with rfl | rfl | rfl | rfl <;> exact Nat.le_of_lt_succ (BitVec.isLt _)

theorem ofDigits_nibbles (h : BitVec 16) : Nat.ofDigits 16 (nibbles h).reverse = h.toNat := by
  have hlt := h.isLt
  simp only [nibbles, List.reverse_cons, List.reverse_nil, List.nil_append, List.cons_append, Nat.ofDigits_cons,
    Nat.ofDigits_nil, BitVec.extractLsb'_toNat, Nat.shiftRight_eq_div_pow]
  omega

theorem mem_quad {h : BitVec 16} {c : Byte} (hc : c ∈ quad h) : ∃ n ≤ 15, c = hexdigit n := by
  rw [quad_eq, List.mem_map] at hc
  obtain ⟨n, hn, rfl⟩ := hc
  exact ⟨n, le_fifteen_of_mem_nibbles hn, rfl⟩

theorem ne_space_of_mem_quad {h : BitVec 16} {c : Byte} (hc : c ∈ quad h) : c ≠ codeSp := by
  obtain ⟨n, hn, rfl⟩ := mem_quad hc
  exact hexdigit_ne_space hn

/-- The lower 16 bits of a value. -/
def lowHalf (v : Value) : BitVec 16 := v.extractLsb' 0 16

/-- The upper 16 bits of a value. -/
def highHalf (v : Value) : BitVec 16 := v.extractLsb' 16 16

theorem halves_toNat (v : Value) : (highHalf v).toNat * 16 ^ 4 + (lowHalf v).toNat = v.toNat := by
  have hlt := v.isLt
  simp only [highHalf, lowHalf, BitVec.extractLsb'_toNat, Nat.shiftRight_eq_div_pow]
  omega

theorem lowHalf_toNat_of_short {v : Value} (h : v.toNat ≤ 0xFFFF) : (lowHalf v).toNat = v.toNat := by
  simp only [lowHalf, BitVec.extractLsb'_toNat, Nat.shiftRight_eq_div_pow]
  omega

theorem encodeHex_of_short {v : Value} (h : v.toNat ≤ 0xFFFF) (g : Bool) : encodeHex v g = quad (lowHalf v) :=
  if_pos (BitVec.le_def.mpr h)

theorem encodeHex_of_long {v : Value} (h : 0xFFFF < v.toNat) (g : Bool) :
    encodeHex v g = quad (highHalf v) ++ (if g then [codeSp] else []) ++ quad (lowHalf v) := by
  have hlong : ¬ v ≤ 0xFFFF := fun hle => absurd (BitVec.le_def.mp hle) (Nat.not_le.mpr h)
  refine (if_neg hlong).trans ?_
  cases g <;> rfl

theorem length_encodeHex (v : Value) (g : Bool) :
    (encodeHex v g).length = if v.toNat ≤ 0xFFFF then 4 else if g then 9 else 8 := by
  split
  · next hshort => rw [encodeHex_of_short hshort, length_quad]
  · next hlong =>
    rw [encodeHex_of_long (Nat.lt_of_not_le hlong)]
    cases g <;> rfl

theorem length_encodeHex_le (v : Value) (g : Bool) : (encodeHex v g).length ≤ 9 := by
  rw [length_encodeHex]
  split
  · decide
  · split <;> decide

theorem mem_encodeHex {v : Value} {g : Bool} {c : Byte} (h : c ∈ encodeHex v g) :
    c = codeSp ∨ ∃ n ≤ 15, c = hexdigit n := by
  rcases Nat.lt_or_ge 0xFFFF v.toNat with hlong | hshort
  · rw [encodeHex_of_long hlong, List.mem_append, List.mem_append] at h
    rcases h with (hhigh | hspace) | hlow
    · exact .inr (mem_quad hhigh)
    · cases g with
      | true => exact .inl (List.mem_singleton.mp hspace)
      | false => exact absurd hspace List.not_mem_nil
    · exact .inr (mem_quad hlow)
  · rw [encodeHex_of_short hshort] at h
    exact .inr (mem_quad h)

theorem mem_encodeHex_toNat {v : Value} {g : Bool} {c : Byte} (h : c ∈ encodeHex v g) :
    c = codeSp ∨ 0x30 ≤ c.toNat ∧ c.toNat ≤ 0x39 ∨ 0x41 ≤ c.toNat ∧ c.toNat ≤ 0x46 := by
  rcases mem_encodeHex h with rfl | ⟨n, hn, rfl⟩
  · exact .inl rfl
  · exact .inr (hexdigit_toNat_range hn)

/-! The one space of a grouped text (40_numeric_encode.md R71). -/

/-- A separator that occurs on neither side of its place is found at that place alone. -/
theorem getElem?_append_separator {α : Type} {xs ys : List α} {a c : α} {k : Nat} (hx : a ∉ xs) (hy : a ∉ ys)
    (h : (xs ++ [a] ++ ys)[k]? = some c) : c = a ↔ k = xs.length := by
  have hat : (xs ++ [a] ++ ys)[xs.length]? = some a := by simp
  refine ⟨fun hca => ?_, fun hk => ?_⟩
  · rcases Nat.lt_trichotomy k xs.length with hlt | heq | hgt
    · rw [List.append_assoc, List.getElem?_append_left hlt] at h
      exact absurd (hca ▸ List.mem_of_getElem? h) hx
    · exact heq
    · rw [List.getElem?_append_right (by simpa using hgt)] at h
      exact absurd (hca ▸ List.mem_of_getElem? h) hy
  · rw [hk, hat] at h
    exact (Option.some.inj h).symm

theorem not_mem_quad_space (h : BitVec 16) : codeSp ∉ quad h := fun hc => ne_space_of_mem_quad hc rfl

theorem encodeHex_space_iff {v : Value} {g : Bool} {k : Nat} {c : Byte} (h : (encodeHex v g)[k]? = some c) :
    c = codeSp ↔ (encodeHex v g).length = 9 ∧ k = 4 := by
  have hmem := List.mem_of_getElem? h
  rcases Nat.lt_or_ge 0xFFFF v.toNat with hlong | hshort
  · rw [encodeHex_of_long hlong] at h hmem ⊢
    cases g with
    | true =>
      rw [if_pos rfl] at h ⊢
      rw [getElem?_append_separator (not_mem_quad_space _) (not_mem_quad_space _) h]
      exact (and_iff_right rfl).symm
    | false =>
      refine iff_of_false (fun hc => ?_) (fun hnine => absurd hnine.1 (by simp [length_quad]))
      rw [hc] at hmem
      simp [not_mem_quad_space] at hmem
  · rw [encodeHex_of_short hshort] at hmem ⊢
    exact iff_of_false (ne_space_of_mem_quad hmem) (fun hnine => absurd hnine.1 (by simp [length_quad]))

theorem withoutSpaces_append (l m : List Byte) : withoutSpaces (l ++ m) = withoutSpaces l ++ withoutSpaces m :=
  List.filter_append l m

theorem withoutSpaces_quad (h : BitVec 16) : withoutSpaces (quad h) = quad h :=
  List.filter_eq_self.mpr fun _ hc => bne_iff_ne.mpr (ne_space_of_mem_quad hc)

theorem withoutSpaces_encodeHex (v : Value) (g : Bool) : withoutSpaces (encodeHex v g) =
    if v.toNat ≤ 0xFFFF then quad (lowHalf v) else quad (highHalf v) ++ quad (lowHalf v) := by
  split
  · next hshort => rw [encodeHex_of_short hshort, withoutSpaces_quad]
  · next hlong =>
    have hspace : withoutSpaces (if g then [codeSp] else []) = [] := by cases g <;> rfl
    rw [encodeHex_of_long (Nat.lt_of_not_le hlong), withoutSpaces_append, withoutSpaces_append, withoutSpaces_quad,
      withoutSpaces_quad, hspace, List.append_nil]

end Sys2Proof.Proofs

/-! ### The value of a numeric text -/

namespace Sys2Proof.Proofs

open Sys2Proof Sys2Proof.Machine Sys2Proof.Laws

section
variable {base : Nat} {digit : Byte → Option Nat}

theorem textValue_append (l m : List Byte) :
    textValue base digit (l ++ m) = textValue base digit l * base ^ m.length + textValue base digit m := by
  induction l with
  | nil => rw [List.nil_append, textValue, Nat.zero_mul, Nat.zero_add]
  | cons c cs ih =>
    rw [List.cons_append, textValue, textValue, ih, List.length_append, Nat.pow_add]
    ring

/-- The text of digits whose characters read back as the digits has the digits' value. -/
theorem textValue_map {char : Nat → Byte} {ds : List Nat} (h : ∀ d ∈ ds, digit (char d) = some d) :
    textValue base digit (ds.map char) = Nat.ofDigits base ds.reverse := by
  induction ds with
  | nil => rfl
  | cons d ds ih =>
    obtain ⟨hd, hds⟩ := List.forall_mem_cons.mp h
    rw [List.map_cons, textValue, hd, ih hds, List.reverse_cons, Nat.ofDigits_append, Nat.ofDigits_singleton,
      List.length_map, List.length_reverse, Option.getD_some, Nat.mul_comm, Nat.add_comm]

end

theorem textValue_encodeDecimal (v : Value) : textValue 10 decval (encodeDecimal v) = v.toNat := by
  have hread : ∀ d ∈ (decimalDigits v.toNat).reverse, decval (decdigit d) = some d := fun d hd =>
    decval_decdigit (le_nine_of_mem_decimalDigits (List.mem_reverse.mp hd))
  rw [encodeDecimal_eq, textValue_map hread, List.reverse_reverse, ofDigits_decimalDigits]

theorem textValue_quad (h : BitVec 16) : textValue 16 hexval (quad h) = h.toNat := by
  rw [quad_eq, textValue_map fun n hn => hexval_hexdigit (le_fifteen_of_mem_nibbles hn), ofDigits_nibbles]

theorem textValue_encodeHex (v : Value) (g : Bool) :
    textValue 16 hexval (withoutSpaces (encodeHex v g)) = v.toNat := by
  rw [withoutSpaces_encodeHex]
  split
  · next hshort => rw [textValue_quad, lowHalf_toNat_of_short hshort]
  · rw [textValue_append, textValue_quad, textValue_quad, length_quad, halves_toNat]

end Sys2Proof.Proofs

/-! ### Decoding a numeric text -/

namespace Sys2Proof.Proofs

open Sys2Proof Sys2Proof.Machine Sys2Proof.Laws

/-- The first digit left goes into the value so far (40_numeric_encode.md R75). -/
theorem value_step (base val d n rest : Nat) :
    val * base ^ (n + 1) + (d * base ^ n + rest) = (val * base + d) * base ^ n + rest := by
  ring

/-- A value so far is at most what the digits left make of it, so a text that fits overflows at none of its digits. -/
theorem le_mul_pow_add {base : Nat} (hbase : 0 < base) (x n rest : Nat) : x ≤ x * base ^ n + rest :=
  (Nat.le_mul_of_pos_right x (Nat.pow_pos hbase)).trans (Nat.le_add_right _ _)

/-- Over digits whose value fits 32 bits, the loop of `decode_decimal` adds them all. -/
theorem decodeDecimalLoop_of_digits {l : List Byte} {val : Nat} (k : Nat) (hdigits : ∀ c ∈ l, (decval c).isSome = true)
    (hfits : val * 10 ^ l.length + textValue 10 decval l < 2 ^ 32) :
    decodeDecimalLoop l val k = ⟨.ok, val * 10 ^ l.length + textValue 10 decval l, k + l.length⟩ := by
  induction l generalizing val k with
  | nil => simp [decodeDecimalLoop_nil, textValue]
  | cons c cs ih =>
    obtain ⟨hc, hcs⟩ := List.forall_mem_cons.mp hdigits
    obtain ⟨d, hd⟩ := Option.isSome_iff_exists.mp hc
    rw [textValue, hd, Option.getD_some, List.length_cons, value_step] at hfits ⊢
    have hroom := le_mul_pow_add (by decide : 0 < 10) (val * 10 + d) cs.length (textValue 10 decval cs)
    rw [decodeDecimalLoop_cons_of_digit hd, if_neg (by omega), ih (k + 1) hcs hfits, Nat.add_right_comm,
      Nat.add_assoc]

theorem decodeDecimal_of_digits {l : List Byte} (hdigits : ∀ c ∈ l, (decval c).isSome = true)
    (hfits : textValue 10 decval l < 2 ^ 32) : decodeDecimal l = ⟨.ok, textValue 10 decval l, l.length⟩ := by
  have hloop := decodeDecimalLoop_of_digits (val := 0) 0 hdigits (by rwa [Nat.zero_mul, Nat.zero_add])
  rwa [Nat.zero_mul, Nat.zero_add, Nat.zero_add] at hloop

theorem withoutSpaces_cons_space (cs : List Byte) : withoutSpaces (codeSp :: cs) = withoutSpaces cs := rfl

theorem withoutSpaces_cons_of_ne {c : Byte} (h : c ≠ codeSp) (cs : List Byte) :
    withoutSpaces (c :: cs) = c :: withoutSpaces cs := List.filter_cons_of_pos (bne_iff_ne.mpr h)

/-- A digit takes the four bits that the shift leaves free (41_numeric_decode.md R80). -/
theorem shift_or_digit (val : Nat) {d : Nat} (h : d < 16) : val <<< 4 ||| d = val * 16 + d := by
  rw [← Nat.shiftLeft_add_eq_or_of_lt (b := d) (i := 4) h, Nat.shiftLeft_eq]

/-- Over digits and spaces whose value fits 32 bits, the loop of `decode_hex` adds the digits and counts the spaces. -/
theorem decodeHexLoop_of_digits {l : List Byte} {val : Nat} (k : Nat)
    (hdigits : ∀ c ∈ withoutSpaces l, (hexval c).isSome = true)
    (hfits : val * 16 ^ (withoutSpaces l).length + textValue 16 hexval (withoutSpaces l) < 2 ^ 32) :
    decodeHexLoop l val k =
      ⟨.ok, val * 16 ^ (withoutSpaces l).length + textValue 16 hexval (withoutSpaces l), k + l.length⟩ := by
  induction l generalizing val k with
  | nil => simp [decodeHexLoop_nil, withoutSpaces, textValue]
  | cons c cs ih =>
    by_cases hspace : c = codeSp
    · subst hspace
      rw [withoutSpaces_cons_space] at hdigits hfits ⊢
      rw [decodeHexLoop_cons_of_space, ih (k + 1) hdigits hfits, List.length_cons, Nat.add_right_comm, Nat.add_assoc]
    · rw [withoutSpaces_cons_of_ne hspace] at hdigits hfits ⊢
      obtain ⟨hc, hcs⟩ := List.forall_mem_cons.mp hdigits
      obtain ⟨d, hd⟩ := Option.isSome_iff_exists.mp hc
      rw [textValue, hd, Option.getD_some, List.length_cons, value_step] at hfits ⊢
      have hroom := le_mul_pow_add (by decide : 0 < 16) (val * 16 + d) (withoutSpaces cs).length
        (textValue 16 hexval (withoutSpaces cs))
      rw [decodeHexLoop_cons_of_digit hspace hd, if_neg (by omega), shift_or_digit val (hexval_lt hd),
        ih (k + 1) hcs hfits, List.length_cons, Nat.add_right_comm, Nat.add_assoc]

theorem decodeHex_of_digits {l : List Byte} (hdigits : ∀ c ∈ withoutSpaces l, (hexval c).isSome = true)
    (hfits : textValue 16 hexval (withoutSpaces l) < 2 ^ 32) :
    decodeHex l = ⟨.ok, textValue 16 hexval (withoutSpaces l), l.length⟩ := by
  have hloop := decodeHexLoop_of_digits (val := 0) 0 hdigits (by rwa [Nat.zero_mul, Nat.zero_add])
  rwa [Nat.zero_mul, Nat.zero_add, Nat.zero_add] at hloop

theorem decodeDecimal_encodeDecimal (v : Value) :
    decodeDecimal (encodeDecimal v) = ⟨.ok, v.toNat, (encodeDecimal v).length⟩ := by
  have hdigits : ∀ c ∈ encodeDecimal v, (decval c).isSome = true := by
    intro c hc
    obtain ⟨d, hd, rfl⟩ := mem_encodeDecimal hc
    rw [decval_decdigit hd, Option.isSome_some]
  rw [decodeDecimal_of_digits hdigits (by rw [textValue_encodeDecimal]; exact v.isLt), textValue_encodeDecimal]

theorem decodeHex_encodeHex (v : Value) (g : Bool) :
    decodeHex (encodeHex v g) = ⟨.ok, v.toNat, (encodeHex v g).length⟩ := by
  have hdigits : ∀ c ∈ withoutSpaces (encodeHex v g), (hexval c).isSome = true := by
    intro c hc
    obtain ⟨hmem, hspace⟩ := List.mem_filter.mp hc
    obtain ⟨n, hn, rfl⟩ := (mem_encodeHex hmem).resolve_left (bne_iff_ne.mp hspace)
    rw [hexval_hexdigit hn, Option.isSome_some]
  rw [decodeHex_of_digits hdigits (by rw [textValue_encodeHex]; exact v.isLt), textValue_encodeHex]

/-- Settles O40: the round trips, and for the converse a leading zero and a text of one digit. -/
theorem encodedValueDecodesToItself : Obligations.EncodedValueDecodesToItself :=
  ⟨decodeDecimal_encodeDecimal, decodeHex_encodeHex, ⟨[0x30, 0x30], by decide⟩, ⟨[0x30], by decide⟩⟩

end Sys2Proof.Proofs

/-! ### The sizes and the characters of the numeric text -/

namespace Sys2Proof.Proofs

open Sys2Proof Sys2Proof.Machine Sys2Proof.Laws

/-- Settles O31: the digits' codes, and every character is a digit, a space or a letter up to 'F'. -/
theorem digitCharacters : Obligations.DigitCharacters := by
  refine ⟨fun d => decdigit_toNat, fun n hn => hexdigit_of_le_nine hn ▸ decdigit_toNat hn,
    fun n => hexdigit_toNat_of_letter, fun v c hc => ?_, fun v g c hc => ?_⟩
  · obtain ⟨-, hhigh⟩ := mem_encodeDecimal_toNat hc
    omega
  · rcases mem_encodeHex_toNat hc with rfl | hdigit
    · decide
    · omega

/-- Settles O34: from the lengths of the two encoders' texts. -/
theorem numericTextSizes : Obligations.NumericTextSizes := by
  refine ⟨fun v => ⟨one_le_length_encodeDecimal v, length_encodeDecimal_le v⟩, fun v g hshort => ?_,
    fun v hlong => ?_, fun v g => ⟨?_, ?_⟩⟩
  · rw [length_encodeHex, if_pos hshort]
  · rw [length_encodeHex, length_encodeHex, if_neg (Nat.not_le.mpr hlong), if_neg (Nat.not_le.mpr hlong)]
    exact ⟨rfl, rfl⟩
  · exact Nat.succ_le_succ (length_encodeDecimal_le v)
  · exact (Nat.succ_le_succ (length_encodeHex_le v g)).trans (by decide)

end Sys2Proof.Proofs

/-! ### The answers of ENC_DEC and ENC_HEX -/

namespace Sys2Proof.Proofs

open Sys2Proof Sys2Proof.Machine Sys2Proof.Laws

/-- A packed text has the text's bytes, first byte lowest, and 0x00 above them (30_encoding.md R57). -/
theorem packText_byte (text : List Byte) {k : Nat} (hk : k ≤ 10) :
    (packText text).extractLsb' (8 * k) 8 = text[k]?.getD 0 := by
  induction text generalizing k with
  | nil => exact BitVec.eq_of_getLsbD_eq fun i hi => by simp [packText]
  | cons b bs ih =>
    cases k with
    | zero =>
      refine BitVec.eq_of_getLsbD_eq fun i hi => ?_
      simp [packText, hi, hi.trans (by decide : 8 < 88)]
    | succ k =>
      rw [List.getElem?_cons_succ, ← ih (by omega)]
      refine BitVec.eq_of_getLsbD_eq fun i hi => ?_
      have hbit : 8 * (k + 1) + i = 8 + (8 * k + i) := by omega
      have hin : 8 + (8 * k + i) < 88 := by omega
      rw [BitVec.getLsbD_extractLsb', BitVec.getLsbD_extractLsb', hbit, packText, BitVec.getLsbD_or,
        BitVec.getLsbD_shiftLeft]
      simp [hi, hin]

theorem resByte_resOfText_of_lt {text : List Byte} {k : Nat} (hfits : text.length ≤ 10) (hk : k < text.length) :
    some (resByte (resOfText text) k) = text[k]? := by
  rw [resByte, resOfText, packText_byte text (by omega), List.getElem?_eq_getElem hk, Option.getD_some]

theorem resByte_resOfText_of_ge {text : List Byte} {k : Nat} (hk : text.length ≤ k) (hten : k ≤ 10) :
    resByte (resOfText text) k = 0x00 := by
  rw [resByte, resOfText, packText_byte text hten, List.getElem?_eq_none hk, Option.getD_none]

theorem resOfText_len {text : List Byte} (hfits : text.length ≤ 10) : (resOfText text).len.toNat = text.length := by
  rw [resOfText, countField, BitVec.toNat_ofNat, Nat.mod_eq_of_lt (by omega)]

/-- Settles O32: the text is `encode_decimal(v)`, packed. -/
theorem encDecReturnsTheShortestDecimalText : Obligations.EncDecReturnsTheShortestDecimalText := fun v _ =>
  have hfits := length_encodeDecimal_le v
  ⟨encodeDecimal v, resOfText (encodeDecimal v), exec_encDec_eq_next.mpr rfl, rfl, resOfText_len hfits,
    one_le_length_encodeDecimal v, hfits, fun _ => mem_encodeDecimal_toNat, textValue_encodeDecimal v,
    encodeDecimal_no_leading_zero v, fun _ => resByte_resOfText_of_lt hfits, fun _ => resByte_resOfText_of_ge⟩

/-- Settles O33: the text is `encode_hex(v, g)`, packed. -/
theorem encHexReturnsTheHexadecimalText : Obligations.EncHexReturnsTheHexadecimalText := fun v g _ =>
  have hfits := (length_encodeHex_le v g).trans (Nat.le_succ 9)
  ⟨encodeHex v g, resOfText (encodeHex v g), exec_encHex_eq_next.mpr rfl, rfl, resOfText_len hfits,
    length_encodeHex v g, fun _ _ => encodeHex_space_iff, fun _ => mem_encodeHex_toNat, textValue_encodeHex v g,
    fun _ => resByte_resOfText_of_lt hfits, fun _ => resByte_resOfText_of_ge⟩

end Sys2Proof.Proofs

/-! PROOFS. The family 41_numeric_decode.md: the character values (O35), the decoders on every text (O36, O37), and the
text that the decode operations read (O38). -/

/-! ### The text that a decode operation reads -/

namespace Sys2Proof.Proofs

open Sys2Proof Sys2Proof.Machine Sys2Proof.Laws

section
variable {s : State} {off : Nat} {l : List Byte}

theorem scanText_of_content (h : contentLoop (s.cap - off) s.rxBuf off = some l) : scanText off s = l := by
  rw [scanText, scanLoop_content h]

/-- A scan that meets no `undef` byte uses up no free value. -/
theorem afterScan_of_content (h : contentLoop (s.cap - off) s.rxBuf off = some l) : afterScan off s = s := by
  rw [afterScan, scanLoop_content h]
  rfl

end

/-- Settles O38: the scan finds the defined text and leaves the state alone. -/
theorem decodeReadsTheLineFromItsOffset : Obligations.DecodeReadsTheLineFromItsOffset := by
  intro off s l hoff hcontent
  have hlegal : indexLegal off s = true := decide_eq_true hoff
  have htext : scanText (indexOf off) s = l := scanText_of_content hcontent
  have hstate : afterScan (indexOf off) s = s := afterScan_of_content hcontent
  refine ⟨exec_decDec_eq_next.mpr (.inl ⟨hlegal, ?_⟩), exec_decHex_eq_next.mpr (.inl ⟨hlegal, ?_⟩)⟩
  · rw [htext, hstate]
    rfl
  · rw [htext, hstate]
    rfl

end Sys2Proof.Proofs

/-! ### The character values -/

namespace Sys2Proof.Proofs

open Sys2Proof Sys2Proof.Machine Sys2Proof.Laws

theorem spanValue_eq_some_iff {first count least d : Nat} {c : Byte} :
    spanValue first count least c = some d ↔ least ≤ d ∧ d < least + count ∧ c.toNat + least = first + d := by
  rw [spanValue, Option.ite_none_right_eq_some, Option.some.injEq]
  omega

theorem decval_eq_some_iff {c : Byte} {d : Nat} : decval c = some d ↔ d ≤ 9 ∧ c.toNat = 0x30 + d := by
  rw [decval, spanValue_eq_some_iff]
  omega

/-- A byte has a hexadecimal value in the first of the three spans that holds it. -/
theorem hexval_eq_or (c : Byte) :
    hexval c = (decval c).or ((spanValue 0x41 6 10 c).or (spanValue 0x61 6 10 c)) := by
  simp [hexval]

/-- The spans do not meet, so that an earlier one takes no byte from a later one (41_numeric_decode.md R77). -/
theorem hexval_eq_some_iff {c : Byte} {d : Nat} : hexval c = some d ↔
    d ≤ 9 ∧ c.toNat = 0x30 + d ∨ 10 ≤ d ∧ d ≤ 15 ∧ (c.toNat + 10 = 0x41 + d ∨ c.toNat + 10 = 0x61 + d) := by
  have hdigit : 0x3A ≤ c.toNat → decval c = none := fun h => spanValue_of_ge h
  have hupper : 0x47 ≤ c.toNat → spanValue 0x41 6 10 c = none := fun h => spanValue_of_ge h
  rw [hexval_eq_or, Option.or_eq_some_iff, Option.or_eq_some_iff, decval_eq_some_iff, spanValue_eq_some_iff,
    spanValue_eq_some_iff]
  constructor
  · omega
  · rintro (h | ⟨hlow, hhigh, h | h⟩)
    · exact .inl h
    · exact .inr ⟨hdigit (by omega), .inl (by omega)⟩
    · exact .inr ⟨hdigit (by omega), .inr ⟨hupper (by omega), by omega⟩⟩

theorem hexval_x : hexval 0x78 = none := by decide

/-- In a text that begins "0x" the letter ends the decode (41_numeric_decode.md R77, R80). -/
theorem decodeHex_zero_x (l : List Byte) : decodeHex (0x30 :: 0x78 :: l) = ⟨.malformed, 0, 1⟩ := by
  have hzero : hexval 0x30 = some 0 := hexval_eq_some_iff.mpr (.inl ⟨Nat.zero_le 9, rfl⟩)
  rw [decodeHex, decodeHexLoop_cons_of_digit (by decide) hzero, if_neg (by decide),
    decodeHexLoop_cons_of_none (by decide) hexval_x]

/-- Settles O35: from the three spans of codes. -/
theorem characterValues : Obligations.CharacterValues :=
  ⟨fun _ _ => decval_eq_some_iff, fun _ _ => hexval_eq_some_iff, hexval_x, decodeHex_zero_x⟩

end Sys2Proof.Proofs

/-! ### The decoders on every text -/

namespace Sys2Proof.Proofs

open Sys2Proof Sys2Proof.Machine Sys2Proof.Laws

/-- A text around one of its bytes. -/
theorem eq_take_append_of_getElem? {l : List Byte} {k : Nat} {c : Byte} (h : l[k]? = some c) :
    l = l.take k ++ c :: l.drop (k + 1) ∧ (l.take k).length = k := by
  obtain ⟨hk, rfl⟩ := List.getElem?_eq_some_iff.mp h
  refine ⟨?_, List.length_take_of_le hk.le⟩
  rw [List.cons_getElem_drop_succ, List.take_append_drop]

/-- Behind a text that decodes, `decode_decimal` goes on with its value and position. -/
theorem decodeDecimalLoop_append {l : List Byte} {val k v j : Nat} (rest : List Byte)
    (h : decodeDecimalLoop l val k = ⟨.ok, v, j⟩) :
    decodeDecimalLoop (l ++ rest) val k = decodeDecimalLoop rest v j := by
  induction l generalizing val k with
  | nil => cases h; rfl
  | cons c cs ih =>
    cases hd : decval c with
    | none => rw [decodeDecimalLoop_cons_of_none hd] at h; cases h
    | some d =>
      rw [decodeDecimalLoop_cons_of_digit hd] at h
      split at h
      · cases h
      · next hfits => rw [List.cons_append, decodeDecimalLoop_cons_of_digit hd, if_neg hfits, ih h]

/-- Behind a text that decodes, `decode_hex` goes on with its value and position. -/
theorem decodeHexLoop_append {l : List Byte} {val k v j : Nat} (rest : List Byte)
    (h : decodeHexLoop l val k = ⟨.ok, v, j⟩) :
    decodeHexLoop (l ++ rest) val k = decodeHexLoop rest v j := by
  induction l generalizing val k with
  | nil => cases h; rfl
  | cons c cs ih =>
    by_cases hspace : c = codeSp
    · subst hspace
      rw [decodeHexLoop_cons_of_space] at h
      rw [List.cons_append, decodeHexLoop_cons_of_space, ih h]
    · cases hd : hexval c with
      | none => rw [decodeHexLoop_cons_of_none hspace hd] at h; cases h
      | some d =>
        rw [decodeHexLoop_cons_of_digit hspace hd] at h
        split at h
        · cases h
        · next hfits => rw [List.cons_append, decodeHexLoop_cons_of_digit hspace hd, if_neg hfits, ih h]

section
variable {l : List Byte} {k : Nat} {c : Byte}

/-- Behind digits that fit, `decode_decimal` stands at byte `k` with their value (41_numeric_decode.md R78). -/
theorem decodeDecimal_reaches (hc : l[k]? = some c) (hdigits : ∀ d ∈ l.take k, (decval d).isSome = true)
    (hfits : textValue 10 decval (l.take k) < 2 ^ 32) :
    decodeDecimal l = decodeDecimalLoop (c :: l.drop (k + 1)) (textValue 10 decval (l.take k)) k := by
  obtain ⟨hsplit, hlen⟩ := eq_take_append_of_getElem? hc
  have hbefore := decodeDecimal_of_digits hdigits hfits
  rw [hlen] at hbefore
  conv_lhs => rw [hsplit]
  exact decodeDecimalLoop_append _ hbefore

/-- Behind digits and spaces that fit, `decode_hex` stands at byte `k` with the digits' value (41_numeric_decode.md
R80). -/
theorem decodeHex_reaches (hc : l[k]? = some c) (hdigits : ∀ d ∈ withoutSpaces (l.take k), (hexval d).isSome = true)
    (hfits : textValue 16 hexval (withoutSpaces (l.take k)) < 2 ^ 32) :
    decodeHex l = decodeHexLoop (c :: l.drop (k + 1)) (textValue 16 hexval (withoutSpaces (l.take k))) k := by
  obtain ⟨hsplit, hlen⟩ := eq_take_append_of_getElem? hc
  have hbefore := decodeHex_of_digits hdigits hfits
  rw [hlen] at hbefore
  conv_lhs => rw [hsplit]
  exact decodeHexLoop_append _ hbefore

end

/-- Settles O36: the loop over the whole text, and at the byte where it stops. -/
theorem decimalDecodeIsExact : Obligations.DecimalDecodeIsExact := by
  refine ⟨fun l => decodeDecimal_of_digits, fun l k c hc hdigits hfits hnone => ?_,
    fun l k c d hc hdigits hfits hd hover => ?_⟩
  · rw [decodeDecimal_reaches hc hdigits hfits, decodeDecimalLoop_cons_of_none hnone]
  · rw [decodeDecimal_reaches hc hdigits hfits, decodeDecimalLoop_cons_of_digit hd, if_pos (by omega)]

/-- Settles O37: the loop over the whole text, and at the byte where it stops. -/
theorem hexDecodeIsExact : Obligations.HexDecodeIsExact := by
  refine ⟨fun l => decodeHex_of_digits, fun l k c hc hdigits hfits hspace hnone => ?_,
    fun l k c d hc hdigits hover hfits hspace hd => ?_⟩
  · rw [decodeHex_reaches hc hdigits hfits, decodeHexLoop_cons_of_none hspace hnone]
  · rw [decodeHex_reaches hc hdigits hfits, decodeHexLoop_cons_of_digit hspace hd, if_pos (by omega)]

end Sys2Proof.Proofs

/-! PROOFS. The family 42_rx_framer.md: RXB and its store (O11, O12), the invariant that every step keeps (O45), the other
operations of the framer (O14, O15, O16), its transitions (O18), and a line and an over-long run of bytes (O19, O20). -/

/-! ### RXB -/

namespace Sys2Proof.Proofs

open Sys2Proof Sys2Proof.Machine Sys2Proof.Laws

variable {s : State} {b : Byte}

theorem isLineEnd_iff : isLineEnd b = true ↔ b = 0x0D ∨ b = 0x0C := by
  simp [isLineEnd, codeCr, codeFf]

theorem isLineEnd_eq_false_iff : isLineEnd b = false ↔ ¬ (b = 0x0D ∨ b = 0x0C) := by
  rw [← isLineEnd_iff, Bool.not_eq_true]

theorem frameByte_of_lineEnd (hb : isLineEnd b = true) :
    frameByte b s = completeLine s.rxCur (writeByte .rx s.rxCur b s) := if_pos hb

theorem frameByte_of_cut (hb : isLineEnd b = false) (hcut : s.rxCur + 1 = s.cap - 2) :
    frameByte b s = completeLine (s.rxCur + 1) (writeByte .rx s.rxCur b s) := by
  simp [frameByte, hb, hcut, Config.cut]

theorem frameByte_of_not_cut (hb : isLineEnd b = false) (hcut : s.rxCur + 1 ≠ s.cap - 2) :
    frameByte b s = setRxCur (s.rxCur + 1) (writeByte .rx s.rxCur b s) := by
  simp [frameByte, hb, hcut, Config.cut]

/-- A completed line has its sentinel behind it (42_rx_framer.md R87, the first two branches). -/
@[simp] theorem completeLine_rxBuf (i : Nat) (s : State) : (completeLine i s).rxBuf = memPut s.rxBuf i codeTerm := rfl

theorem exec_rxb_of_cursor_inside (h : s.rxCur < s.cap) :
    exec (.rxb b) s = .next (reply resOk none (frameByte b s)) := if_pos h

/-- Settles O11: the three branches of RXB's rule. -/
theorem rxbAppendsEndsOrCutsTheLine : Obligations.RxbAppendsEndsOrCutsTheLine := by
  intro b s hcur
  rw [exec_rxb_of_cursor_inside hcur]
  split_ifs with hb hcut
  · rw [frameByte_of_lineEnd (isLineEnd_iff.mpr hb)]
    rfl
  · rw [frameByte_of_cut (isLineEnd_eq_false_iff.mpr hb) hcut]
    rfl
  · rw [frameByte_of_not_cut (isLineEnd_eq_false_iff.mpr hb) hcut]
    rfl

/-- What each index of the RX buffer reads as after RXB. -/
theorem memGet_frameByte_rxBuf (b : Byte) (s : State) (j : Nat) :
    memGet (frameByte b s).rxBuf j =
      if j = s.rxCur then some (if isLineEnd b = true then codeTerm else b)
      else if j = s.rxCur + 1 ∧ isLineEnd b = false ∧ s.rxCur + 1 = s.cap - 2 then some codeTerm
      else memGet s.rxBuf j := by
  cases hb : isLineEnd b with
  | true =>
    rw [frameByte_of_lineEnd hb]
    simp only [completeLine_rxBuf, writeByte_rx_rxBuf, memGet_memPut]
    split <;> simp
  | false =>
    by_cases hcut : s.rxCur + 1 = s.cap - 2
    · rw [frameByte_of_cut hb hcut]
      simp only [completeLine_rxBuf, writeByte_rx_rxBuf, memGet_memPut]
      by_cases hj : j = s.rxCur
      · simp [hj]
      · simp [hj, hcut]
    · rw [frameByte_of_not_cut hb hcut]
      simp [memGet_memPut, hcut]

/-- Settles O12. -/
theorem rxbStoresAtTheCursorOnly : Obligations.RxbStoresAtTheCursorOnly := by
  intro b s hcur
  refine ⟨_, exec_rxb_of_cursor_inside hcur, fun j => ?_, fun j => by simp [frameByte_frame]⟩
  simp only [← isLineEnd_iff, Bool.not_eq_true]
  exact memGet_frameByte_rxBuf b s j

end Sys2Proof.Proofs

/-! ### The invariant is kept by every step -/

namespace Sys2Proof.Proofs

open Sys2Proof Sys2Proof.Machine Sys2Proof.Laws

variable {s t : State}

/-- The RX half of `BlockInv`: the cursor, the form of the buffer, the bytes below the cursor and the trailing slot. -/
structure RxInv (s : State) : Prop where
  cursor : s.rxCur ≤ s.cap - 3
  wf : Memory.wf s.cap s.rxBuf = true
  line : ∀ i < s.rxCur, ∃ b, memGet s.rxBuf i = some b ∧ isLineEnd b = false
  slot : memGet s.rxBuf (s.cap - 1) = none

/-- The TX half of `BlockInv`: the send index and the form of the buffer. -/
structure TxInv (s : State) : Prop where
  index : s.txIdx ≤ s.cap
  wf : Memory.wf s.cap s.txBuf = true

theorem lineDefined_iff :
    lineDefined s = true ↔ ∀ i < s.rxCur, ∃ b, memGet s.rxBuf i = some b ∧ isLineEnd b = false := by
  simp only [lineDefined, List.all_eq_true, List.mem_range]
  refine forall₂_congr fun i _ => ?_
  cases memGet s.rxBuf i <;> simp

theorem blockInv_iff : BlockInv s ↔ Config.LegalCap s.cap ∧ RxInv s ∧ TxInv s := by
  have hslot : trailingSlotUndef s = true ↔ memGet s.rxBuf (s.cap - 1) = none := decide_eq_true_iff
  constructor
  · rintro ⟨hcap, hcur, hidx, hrx, htx, hline, hlast⟩
    exact ⟨hcap, ⟨hcur, hrx, lineDefined_iff.mp hline, hslot.mp hlast⟩, hidx, htx⟩
  · rintro ⟨hcap, hr, ht⟩
    exact ⟨hcap, hr.cursor, ht.index, hr.wf, ht.wf, lineDefined_iff.mpr hr.line, hslot.mpr hr.slot⟩

/-- The RX half depends on the capacity, the buffer and the cursor alone. -/
theorem RxInv.of_eq (h : RxInv s) (hcap : t.cap = s.cap) (hbuf : t.rxBuf = s.rxBuf) (hcur : t.rxCur = s.rxCur) :
    RxInv t := by
  obtain ⟨hcursor, hwf, hline, hslot⟩ := h
  constructor
  all_goals simpa only [hcap, hbuf, hcur]

/-- The TX half depends on the capacity, the buffer and the send index alone. -/
theorem TxInv.of_eq (h : TxInv s) (hcap : t.cap = s.cap) (hbuf : t.txBuf = s.txBuf) (hidx : t.txIdx = s.txIdx) :
    TxInv t := by
  obtain ⟨hindex, hwf⟩ := h
  constructor
  all_goals simpa only [hcap, hbuf, hidx]

/-- A completed line leaves nothing below the cursor, so that its form and its trailing slot are all there is to keep:
the sentinel goes below that slot. -/
theorem rxInv_completeLine {i : Nat} (hi : i < s.cap - 1) (hwf : Memory.wf s.cap s.rxBuf = true)
    (hslot : memGet s.rxBuf (s.cap - 1) = none) : RxInv (completeLine i s) where
  cursor := Nat.zero_le _
  wf := wf_memPut codeTerm (hi.trans_le (Nat.sub_le _ _)) hwf
  line := fun _ hlt => absurd hlt (Nat.not_lt_zero _)
  slot := (memGet_memPut_other _ _ hi.ne').trans hslot

/-- RXB keeps the RX half: no store reaches the trailing slot, and a byte that is kept is no CR or FF. -/
theorem rxInv_frameByte (b : Byte) (hcap : 3 ≤ s.cap) (h : RxInv s) : RxInv (frameByte b s) := by
  obtain ⟨hcur, hwf, hline, hslot⟩ := h
  have hroom : s.rxCur + 1 < s.cap - 1 := by omega
  have hwf' : Memory.wf s.cap (memPut s.rxBuf s.rxCur b) = true := wf_memPut b (by omega) hwf
  have hslot' : memGet (memPut s.rxBuf s.rxCur b) (s.cap - 1) = none :=
    (memGet_memPut_other _ _ (by omega)).trans hslot
  rcases frameByte_cases b s with ⟨-, hf⟩ | ⟨-, -, hf⟩ | ⟨hb, hcut, hf⟩ <;> rw [hf]
  · exact rxInv_completeLine (Nat.lt_of_succ_lt hroom) hwf' hslot'
  · exact rxInv_completeLine hroom hwf' hslot'
  · refine ⟨?_, hwf', fun i hi => ?_, hslot'⟩
    · have hnext : s.rxCur + 1 ≠ s.cap - 2 := hcut
      show s.rxCur + 1 ≤ s.cap - 3
      omega
    · by_cases hic : i = s.rxCur
      · exact ⟨b, by simp [hic], hb⟩
      · obtain ⟨c, hc, hcend⟩ := hline i (Nat.lt_of_le_of_ne (Nat.le_of_lt_succ hi) hic)
        exact ⟨c, (memGet_memPut_other _ _ hic).trans hc, hcend⟩

/-- A drain step keeps the TX half: the index goes up below the bound or back to 0 (43_tx_drainer.md R100). -/
theorem txInv_drainStep (h : TxInv s) : TxInv (drainStep s) := by
  obtain ⟨hidx, hwf⟩ := h
  obtain ⟨-, -, -, hbuf, hcap, -⟩ := drainStep_frame s
  refine ⟨?_, by rwa [hcap, hbuf]⟩
  rcases drainStep_txIdx s with ⟨hnext, hlt⟩ | hzero <;> omega

/-- After a reset both buffers are empty and both cursors 0 (44_system.md R109). -/
theorem blockInv_resetBlock (h : Config.LegalCap s.cap) : BlockInv (resetBlock s) :=
  ⟨h, Nat.zero_le _, Nat.zero_le _, wf_nil _, wf_nil _, rfl, rfl⟩

theorem exec_keeps_blockInv {i : Instr} (h : exec i s = .next t) (hinv : BlockInv s) : BlockInv t := by
  obtain ⟨hcap, hrx, htx⟩ := blockInv_iff.mp hinv
  cases exec_effect h with
  | frame b =>
    obtain ⟨hbuf, hidx, -, -, -, hsame, -⟩ := frameByte_frame b s
    exact blockInv_iff.mpr ⟨hsame ▸ hcap, (rxInv_frameByte b hcap.1 hrx).of_eq rfl rfl rfl, htx.of_eq hsame hbuf hidx⟩
  | drain =>
    obtain ⟨hbuf, hcur, -, -, hsame, -⟩ := drainStep_frame s
    exact blockInv_iff.mpr ⟨hsame ▸ hcap, hrx.of_eq hsame hbuf hcur, txInv_drainStep htx⟩
  | store idx b =>
    obtain ⟨hlegal, -⟩ | ⟨-, ht⟩ := exec_txWr_eq_next.mp h
    · exact blockInv_iff.mpr ⟨hcap, hrx.of_eq rfl rfl rfl, htx.index, wf_memPut b (of_decide_eq_true hlegal) htx.wf⟩
    · rw [ht]
      exact hinv
  | clear | look => exact hinv
  | reset => exact blockInv_resetBlock hcap

theorem serveWord_keeps_blockInv {o : Offer} (h : serveWord o s = .next t) (hinv : BlockInv s) : BlockInv t := by
  obtain ⟨e, -, rfl⟩ | ⟨i, -, hx⟩ := serveWord_next_cases h
  · exact hinv
  · rw [arrive_eq] at hx
    exact exec_keeps_blockInv hx hinv

/-- Settles O45: a step without a word is idle or a reset, and a word is refused or performed. -/
theorem stepKeepsTheInvariant : Obligations.StepKeepsTheInvariant := by
  intro s t hinv h
  obtain ⟨-, rfl⟩ | ⟨now, later, -, -, rfl⟩ | ⟨now, later, -, -, -, rfl⟩ | ⟨now, later, o, -, -, -, hw⟩ :=
    step_next_cases h
  · exact hinv
  · exact blockInv_resetBlock (s := passInstant later s) hinv.1
  · exact hinv
  · exact serveWord_keeps_blockInv hw hinv

end Sys2Proof.Proofs

/-! ### The flag, the reads and the transitions -/

namespace Sys2Proof.Proofs

open Sys2Proof Sys2Proof.Machine Sys2Proof.Laws

theorem readyData_eq (s : State) : readyData s = if s.rxReady then 1 else 0 := by
  unfold readyData
  cases s.rxReady <;> rfl

/-- Settles O14. -/
theorem rdyRdReturnsTheFlag : Obligations.RdyRdReturnsTheFlag := by
  intro s
  rw [exec_rdyRd_eq_next, readyData_eq]
  rfl

/-- Settles O15. -/
theorem rdyClrClearsTheFlag : Obligations.RdyClrClearsTheFlag := fun _ => exec_rdyClr_eq_next.mpr rfl

/-- Settles O16: what the read gives where the byte is defined and where it is `undef`. -/
theorem rxRdReturnsTheByte : Obligations.RxRdReturnsTheByte := by
  intro idx s hidx
  have hlegal : indexLegal idx s = true := decide_eq_true hidx
  refine ⟨fun b hb => exec_rxRd_eq_next.mpr (.inl ⟨hlegal, ?_⟩), fun hb => exec_rxRd_eq_next.mpr (.inl ⟨hlegal, ?_⟩)⟩
  · obtain ⟨hread, hafter⟩ := readByte_defined (sp := .rx) (i := indexOf idx) hb
    rw [hread, hafter]
    rfl
  · obtain ⟨hread, hafter⟩ := readByte_undef (sp := .rx) (i := indexOf idx) hb
    rw [hread, hafter]
    rfl

/-- Settles O18: RXB by the branches of its rule, the two operations that clear the flag, and the columns of the read and
write matrix for every other. -/
theorem rxFramerTransitions : Obligations.RxFramerTransitions := by
  refine ⟨fun b s hcap hcur => ?_, fun s => ⟨_, exec_rdyClr_eq_next.mpr rfl, rfl, rfl⟩,
    fun s => ⟨_, exec_rst_eq_next.mpr rfl, rfl, rfl⟩, fun i s t notRxb notClr notRst h => ?_,
    fun o s e hd => ⟨_, serveWord_of_error hd, rfl, rfl⟩⟩
  · refine ⟨_, exec_rxb_of_cursor_inside (by omega), fun hb => ?_, fun hb hlt => ?_, fun hb hcut => ?_⟩
    · rw [frameByte_of_lineEnd (isLineEnd_iff.mpr hb)]
      exact ⟨rfl, rfl⟩
    · rw [frameByte_of_not_cut (isLineEnd_eq_false_iff.mpr hb) hlt.ne]
      exact ⟨decide_eq_true (Nat.succ_pos _), rfl, rfl⟩
    · rw [frameByte_of_cut (isLineEnd_eq_false_iff.mpr hb) hcut]
      exact ⟨rfl, rfl⟩
  · exact ⟨(exec_keeps_rxBuf_rxCur h notRxb notRst).2, exec_keeps_rxReady h notRxb notClr notRst⟩

end Sys2Proof.Proofs

/-! ### Operations one after the other -/

namespace Sys2Proof.Proofs

open Sys2Proof Sys2Proof.Machine Sys2Proof.Laws

variable {s t : State}

theorem execAll_cons_eq_next {i : Instr} {is : List Instr} :
    execAll (i :: is) s = .next t ↔ ∃ u, exec i s = .next u ∧ execAll is u = .next t := by
  cases h : exec i s <;> simp [execAll, h]

theorem execAll_append {is js : List Instr} (h : execAll is s = .next t) : execAll (is ++ js) s = execAll js t := by
  induction is generalizing s with
  | nil => cases h; rfl
  | cons i is ih =>
    obtain ⟨u, hu, hrest⟩ := execAll_cons_eq_next.mp h
    simp [execAll, hu, ih hrest]

/-- One byte more after a run of bytes. -/
theorem execAll_rxb_concat {l : List Byte} (b : Byte) (h : execAll (l.map .rxb) s = .next t) (hcur : t.rxCur < t.cap) :
    execAll ((l ++ [b]).map .rxb) s = .next (reply resOk none (frameByte b t)) := by
  rw [List.map_append, execAll_append h]
  exact execAll_cons_eq_next.mpr ⟨_, exec_rxb_of_cursor_inside hcur, rfl⟩

/-- A run of received bytes leaves the capacity, the TX side and the peripheral alone (10_state.md R29). -/
theorem execAll_rxb_frame {l : List Byte} (h : execAll (l.map .rxb) s = .next t) :
    t.cap = s.cap ∧ t.txBuf = s.txBuf ∧ t.txIdx = s.txIdx ∧ t.txBusy = s.txBusy ∧ t.wireTx = s.wireTx ∧
      t.fTxovr = s.fTxovr := by
  induction l generalizing s with
  | nil => cases h; simp
  | cons b l ih =>
    obtain ⟨u, hu, hrest⟩ := execAll_cons_eq_next.mp h
    obtain ⟨-, rfl⟩ := exec_rxb_eq_next.mp hu
    simpa [frameByte_frame] using ih hrest

end Sys2Proof.Proofs

/-! ### A line at the bottom of the buffer -/

namespace Sys2Proof.Proofs

open Sys2Proof Sys2Proof.Machine Sys2Proof.Laws

/-- The content `m'` is the content `m` with the bytes `l` laid over it from index 0 on. -/
def Overlaid (m : Memory) (l : List Byte) (m' : Memory) : Prop :=
  ∀ k, memGet m' k = if k < l.length then l[k]? else memGet m k

section
variable {m m' : Memory} {l : List Byte}

theorem overlaid_nil (m : Memory) : Overlaid m [] m := fun _ => rfl

theorem Overlaid.memGet_of_lt (h : Overlaid m l m') {k : Nat} (hk : k < l.length) : memGet m' k = l[k]? :=
  (h k).trans (if_pos hk)

theorem Overlaid.memGet_of_ge (h : Overlaid m l m') {k : Nat} (hk : l.length ≤ k) : memGet m' k = memGet m k :=
  (h k).trans (if_neg hk.not_gt)

/-- A write behind the overlay makes it longer by a byte. -/
theorem Overlaid.concat (b : Byte) (h : Overlaid m l m') : Overlaid m (l ++ [b]) (memPut m' l.length b) := by
  intro k
  rw [memGet_memPut, h k, List.length_append, List.length_singleton]
  rcases Nat.lt_trichotomy k l.length with hk | rfl | hk
  · simp [hk, hk.ne, Nat.lt_succ_of_lt hk]
  · simp
  · simp [hk.ne', hk.not_gt, Nat.not_lt.mpr (Nat.succ_le_of_lt hk)]

/-- A byte written behind the overlay and at once overwritten, as the CR or FF that ends a line (42_rx_framer.md R87). -/
theorem Overlaid.concat_overwritten (c b : Byte) (h : Overlaid m l m') :
    Overlaid m (l ++ [b]) (memPut (memPut m' l.length c) l.length b) := by
  intro k
  rw [← h.concat b k]
  simp only [memGet_memPut]
  split <;> rfl

end

/-- The framer is in the middle of a line: it has received the bytes `l` since the buffer's content was `m`. -/
structure MidLine (m : Memory) (l : List Byte) (s : State) : Prop where
  cursor : s.rxCur = l.length
  content : Overlaid m l s.rxBuf

/-- The line `l` is complete: cursor 0, the flag set, and the line with its sentinel behind it over the content `m`. -/
structure LineDone (m : Memory) (l : List Byte) (s : State) : Prop where
  cursor : s.rxCur = 0
  ready : s.rxReady = true
  content : Overlaid m (l ++ [codeTerm]) s.rxBuf

section
variable {m : Memory} {l : List Byte} {s : State} {b : Byte}

/-! An answer sets outputs alone. -/

theorem MidLine.reply (h : MidLine m l s) (r : Res) (tx : Option Byte) : MidLine m l (reply r tx s) :=
  ⟨h.cursor, h.content⟩

theorem LineDone.reply (h : LineDone m l s) (r : Res) (tx : Option Byte) : LineDone m l (reply r tx s) :=
  ⟨h.cursor, h.ready, h.content⟩

/-- Between two lines the framer is in the middle of an empty one. -/
theorem midLine_nil (h : s.rxCur = 0) : MidLine s.rxBuf [] s := ⟨h, overlaid_nil _⟩

theorem MidLine.concat (h : MidLine m l s) (hb : isLineEnd b = false) (hcut : l.length + 1 ≠ s.cap - 2) :
    MidLine m (l ++ [b]) (frameByte b s) ∧ (frameByte b s).rxReady = s.rxReady := by
  obtain ⟨hcur, hbuf⟩ := h
  rw [frameByte_of_not_cut hb (by rwa [hcur]), hcur]
  exact ⟨⟨by simp, hbuf.concat b⟩, rfl⟩

theorem MidLine.lineDone_of_lineEnd (h : MidLine m l s) (hb : isLineEnd b = true) : LineDone m l (frameByte b s) := by
  obtain ⟨hcur, hbuf⟩ := h
  rw [frameByte_of_lineEnd hb, hcur]
  exact ⟨rfl, rfl, hbuf.concat_overwritten b codeTerm⟩

theorem MidLine.lineDone_of_cut (h : MidLine m l s) (hb : isLineEnd b = false) (hcut : l.length + 1 = s.cap - 2) :
    LineDone m (l ++ [b]) (frameByte b s) := by
  obtain ⟨hcur, hbuf⟩ := h
  have hstore := (hbuf.concat b).concat codeTerm
  rw [List.length_append, List.length_singleton] at hstore
  rw [frameByte_of_cut hb (by rwa [hcur]), hcur]
  exact ⟨rfl, rfl, hstore⟩

end

end Sys2Proof.Proofs

/-! ### A run of bytes without CR and FF -/

namespace Sys2Proof.Proofs

open Sys2Proof Sys2Proof.Machine Sys2Proof.Laws

/-- The bytes of a run after its last whole piece of `p` bytes. -/
def lastPiece (p : Nat) (l : List Byte) : List Byte := l.drop (l.length / p * p)

theorem length_lastPiece (p : Nat) (l : List Byte) : (lastPiece p l).length = l.length % p := by
  rw [lastPiece, List.length_drop, Nat.mod_eq_sub_div_mul]

theorem getElem?_lastPiece (p : Nat) (l : List Byte) (k : Nat) :
    (lastPiece p l)[k]? = l[l.length / p * p + k]? := List.getElem?_drop

theorem lastPiece_nil (p : Nat) : lastPiece p [] = [] := List.drop_nil

theorem lastPiece_of_lt {p : Nat} {l : List Byte} (h : l.length < p) : lastPiece p l = l := by
  simp [lastPiece, Nat.div_eq_of_lt h]

/-- A byte that completes a piece leaves an empty last piece. -/
theorem lastPiece_concat_of_full {p : Nat} {l : List Byte} (b : Byte) (h : (lastPiece p l).length + 1 = p) :
    lastPiece p (l ++ [b]) = [] := by
  rw [length_lastPiece] at h
  rw [← List.length_eq_zero_iff, length_lastPiece, List.length_append, List.length_singleton,
    ← Nat.mod_add_mod, h, Nat.mod_self]

/-- Any other byte stands at the end of the last piece. -/
theorem lastPiece_concat_of_room {p : Nat} {l : List Byte} (b : Byte) (hp : 0 < p)
    (h : (lastPiece p l).length + 1 ≠ p) : lastPiece p (l ++ [b]) = lastPiece p l ++ [b] := by
  rw [length_lastPiece] at h
  have hroom : l.length % p + 1 < p := lt_of_le_of_ne (Nat.mod_lt _ hp) h
  have hdiv : (l.length + 1) / p = l.length / p := by
    conv_lhs => rw [← Nat.div_add_mod l.length p, Nat.add_assoc]
    rw [Nat.mul_add_div hp, Nat.div_eq_of_lt hroom, Nat.add_zero]
  rw [lastPiece, lastPiece, List.length_append, List.length_singleton, hdiv,
    List.drop_append_of_le_length (Nat.div_mul_le_self _ _)]

/-- The first piece is complete once a byte completes a piece. -/
theorem le_length_succ_of_full {p : Nat} {l : List Byte} (h : (lastPiece p l).length + 1 = p) : p ≤ l.length + 1 :=
  calc p = l.length % p + 1 := by rw [← length_lastPiece, h]
    _ ≤ l.length + 1 := Nat.succ_le_succ (Nat.mod_le _ _)

/-- Any other byte completes no piece, the first one included. -/
theorem le_length_succ_iff_of_room {p : Nat} {l : List Byte} (h : (lastPiece p l).length + 1 ≠ p) :
    p ≤ l.length + 1 ↔ p ≤ l.length := by
  refine ⟨fun hle => ?_, Nat.le_succ_of_le⟩
  by_contra hlt
  rw [lastPiece_of_lt (Nat.lt_of_not_le hlt)] at h
  omega

/-- What a run of bytes without CR and FF leaves: the last piece is being received, the flag is set where a piece was
completed, and up to the first cut that piece lies over the content of `s` (42_rx_framer.md R88, R97). -/
structure RunLeaves (s : State) (l : List Byte) (m : Memory) (t : State) : Prop where
  runs : execAll (l.map .rxb) s = .next t
  mid : MidLine m (lastPiece (s.cap - 2) l) t
  ready : t.rxReady = (s.rxReady || decide (s.cap - 2 ≤ l.length))
  first : l.length < s.cap - 2 → m = s.rxBuf

section
variable {s t : State} {l : List Byte} {m : Memory} {b : Byte}

theorem RunLeaves.keeps_cap (h : RunLeaves s l m t) : t.cap = s.cap := (execAll_rxb_frame h.runs).1

theorem RunLeaves.cursor_inside (h : RunLeaves s l m t) (hcap : 3 ≤ s.cap) : t.rxCur < t.cap := by
  have hlt : l.length % (s.cap - 2) < s.cap - 2 := Nat.mod_lt _ (by omega)
  rw [h.keeps_cap, h.mid.cursor, length_lastPiece]
  omega

/-- A run goes on by a byte, which is cut behind where it fills its piece. -/
theorem RunLeaves.concat (hcap : 3 ≤ s.cap) (hb : isLineEnd b = false) (h : RunLeaves s l m t) :
    ∃ m', RunLeaves s (l ++ [b]) m' (reply resOk none (frameByte b t)) := by
  have hruns := execAll_rxb_concat b h.runs (h.cursor_inside hcap)
  have hlen : (l ++ [b]).length = l.length + 1 := List.length_append
  by_cases hfull : (lastPiece (s.cap - 2) l).length + 1 = s.cap - 2
  · obtain ⟨hcur, hready, -⟩ := h.mid.lineDone_of_cut hb (by rwa [h.keeps_cap])
    have hle := le_length_succ_of_full hfull
    refine ⟨(frameByte b t).rxBuf, hruns, ?_, ?_, fun hlt => ?_⟩
    · rw [lastPiece_concat_of_full b hfull]
      exact (midLine_nil hcur).reply _ _
    · simp [hlen, hle, hready]
    · omega
  · obtain ⟨hmid, hready⟩ := h.mid.concat hb (by rwa [h.keeps_cap])
    refine ⟨m, hruns, ?_, ?_, fun hlt => h.first (by omega)⟩
    · rw [lastPiece_concat_of_room b (by omega) hfull]
      exact hmid.reply _ _
    · rw [hlen, decide_eq_decide.mpr (le_length_succ_iff_of_room hfull), ← h.ready]
      exact hready

/-- A run from cursor 0, byte after byte. -/
theorem runLeaves (hcap : 3 ≤ s.cap) (hcur : s.rxCur = 0) (l : List Byte) (hl : ∀ b ∈ l, isLineEnd b = false) :
    ∃ m t, RunLeaves s l m t := by
  induction l using List.reverseRecOn with
  | nil =>
    have hpos : s.cap - 2 ≠ 0 := by omega
    exact ⟨s.rxBuf, s, rfl, (lastPiece_nil _).symm ▸ midLine_nil hcur, by simp [hpos], fun _ => rfl⟩
  | append_singleton l b ih =>
    obtain ⟨m, t, h⟩ := ih fun c hc => hl c (List.mem_append_left _ hc)
    obtain ⟨m', h'⟩ := h.concat hcap (hl b (by simp))
    exact ⟨m', _, h'⟩

end

/-- Settles O20: the run leaves its last piece, of `m mod (CAP - 2)` bytes. -/
theorem overLongLineIsCutInPieces : Obligations.OverLongLineIsCutInPieces := by
  intro s l hcap hcur hl
  obtain ⟨m, t, hruns, ⟨hpiece, hbuf⟩, hready, -⟩ :=
    runLeaves hcap.1 hcur l fun b hb => isLineEnd_eq_false_iff.mpr (not_or.mpr (hl b hb))
  refine ⟨t, hruns, hpiece.trans (length_lastPiece _ _), hready, fun k hk => ?_⟩
  rw [hbuf.memGet_of_lt (by rwa [length_lastPiece]), getElem?_lastPiece]

end Sys2Proof.Proofs

/-! ### A completed line -/

namespace Sys2Proof.Proofs

open Sys2Proof Sys2Proof.Machine Sys2Proof.Laws

/-- The content from an index where the bytes `l` and then the sentinel stand ends at the first `TERM` of `l`. -/
theorem contentLoop_of_text {l : List Byte} {m : Memory} {fuel i : Nat} (hfuel : l.length < fuel)
    (htext : ∀ k < l.length, memGet m (i + k) = l[k]?) (hend : memGet m (i + l.length) = some codeTerm) :
    contentLoop fuel m i = some (l.takeWhile fun b => b ≠ codeTerm) := by
  obtain ⟨n, rfl⟩ := Nat.exists_eq_succ_of_ne_zero (Nat.ne_zero_of_lt hfuel)
  induction l generalizing n i with
  | nil =>
    have hhere : memGet m i = some codeTerm := hend
    rw [contentLoop_succ_of_defined hhere, if_pos rfl, List.takeWhile_nil]
  | cons b l ih =>
    have hhere : memGet m i = some b := htext 0 (Nat.succ_pos _)
    rw [contentLoop_succ_of_defined hhere]
    by_cases hb : b = codeTerm
    · simp [hb]
    · rw [List.length_cons] at hfuel hend htext
      obtain ⟨n, rfl⟩ := Nat.exists_eq_succ_of_ne_zero (show n ≠ 0 by omega)
      have hrest := ih (i := i + 1)
        (fun k hk => by rw [Nat.add_right_comm]; exact htext (k + 1) (Nat.succ_lt_succ hk))
        (by rw [Nat.add_right_comm]; exact hend) n (by omega)
      simp [hb, hrest]

section
variable {s : State} {l : List Byte}

/-- Bytes that no cut ends leave the framer in the middle of their line. -/
theorem midLine_of_run (hcap : 3 ≤ s.cap) (hcur : s.rxCur = 0) (hl : ∀ b ∈ l, isLineEnd b = false)
    (hshort : l.length < s.cap - 2) :
    ∃ t, execAll (l.map .rxb) s = .next t ∧ t.cap = s.cap ∧ t.rxCur < t.cap ∧ MidLine s.rxBuf l t := by
  obtain ⟨m, t, h⟩ := runLeaves hcap hcur l hl
  have hmid := h.mid
  rw [lastPiece_of_lt hshort, h.first hshort] at hmid
  exact ⟨t, h.runs, h.keeps_cap, h.cursor_inside hcap, hmid⟩

/-- A line that a CR or FF ends. -/
theorem lineDone_of_lineEnd {b : Byte} (hcap : 3 ≤ s.cap) (hcur : s.rxCur = 0) (hl : ∀ b ∈ l, isLineEnd b = false)
    (hshort : l.length ≤ s.cap - 3) (hb : isLineEnd b = true) :
    ∃ t, execAll ((l ++ [b]).map .rxb) s = .next t ∧ LineDone s.rxBuf l t := by
  obtain ⟨t, hruns, -, hinside, hmid⟩ := midLine_of_run hcap hcur hl (by omega)
  exact ⟨_, execAll_rxb_concat b hruns hinside, (hmid.lineDone_of_lineEnd hb).reply _ _⟩

/-- A line of `CAP - 2` bytes, cut behind its last. -/
theorem lineDone_of_cut (hcap : 3 ≤ s.cap) (hcur : s.rxCur = 0) (hl : ∀ b ∈ l, isLineEnd b = false)
    (hfull : l.length = s.cap - 2) : ∃ t, execAll (l.map .rxb) s = .next t ∧ LineDone s.rxBuf l t := by
  obtain rfl | ⟨l, b, rfl⟩ := l.eq_nil_or_concat'
  · rw [List.length_nil] at hfull
    omega
  · rw [List.length_append, List.length_singleton] at hfull
    obtain ⟨t, hruns, hkeeps, hinside, hmid⟩ :=
      midLine_of_run hcap hcur (fun c hc => hl c (List.mem_append_left _ hc)) (by omega)
    have hdone := hmid.lineDone_of_cut (hl b (by simp)) (by rwa [hkeeps])
    exact ⟨_, execAll_rxb_concat b hruns hinside, hdone.reply _ _⟩

/-- The bytes of a completed line, its sentinel and what is above it (42_rx_framer.md R95). -/
theorem LineDone.reads {m : Memory} (h : LineDone m l s) :
    (∀ k, k < l.length → memGet s.rxBuf k = l[k]?) ∧ memGet s.rxBuf l.length = some codeTerm ∧
      (∀ k, l.length < k → memGet s.rxBuf k = memGet m k) := by
  have hbuf := h.content
  refine ⟨fun k hk => ?_, ?_, fun k hk => hbuf.memGet_of_ge (by simpa using hk)⟩
  · rw [hbuf.memGet_of_lt (by simp; omega), List.getElem?_append_left hk]
  · rw [hbuf.memGet_of_lt (by simp)]
    simp

end

/-- Settles O19: the two ways to complete a line, and then what the buffer reads as. -/
theorem completedLineStandsInTheBuffer : Obligations.CompletedLineStandsInTheBuffer := by
  rintro s l stop ⟨hcap, -⟩ hcur hl hway
  have hdata : ∀ b ∈ l, isLineEnd b = false := fun b hb => isLineEnd_eq_false_iff.mpr (not_or.mpr (hl b hb))
  have hline : l.length ≤ s.cap - 2 ∧ ∃ t, execAll ((l ++ stop).map .rxb) s = .next t ∧ LineDone s.rxBuf l t := by
    rcases hway with ⟨hshort, rfl | rfl⟩ | ⟨hfull, rfl⟩
    · exact ⟨by omega, lineDone_of_lineEnd hcap hcur hdata hshort rfl⟩
    · exact ⟨by omega, lineDone_of_lineEnd hcap hcur hdata hshort rfl⟩
    · rw [List.append_nil]
      exact ⟨hfull.le, lineDone_of_cut hcap hcur hdata hfull⟩
  obtain ⟨hlen, t, hruns, hdone⟩ := hline
  obtain ⟨hkeeps, hframe⟩ := execAll_rxb_frame hruns
  obtain ⟨htext, hend, habove⟩ := hdone.reads
  refine ⟨t, hruns, hdone.cursor, hdone.ready, htext, hend, habove, ?_, hframe⟩
  exact contentLoop_of_text (by omega) (by simpa using htext) (by simpa using hend)

end Sys2Proof.Proofs

/-! PROOFS. The family 43_tx_drainer.md: TX_WR and the outcomes of a drain step (O21 to O26), the transitions of the drainer
(O27), the full drain of a message (O28), and the byte that a drain in progress owes (O48). -/

/-! ### TX_WR and the drain step -/

namespace Sys2Proof.Proofs

open Sys2Proof Sys2Proof.Machine Sys2Proof.Laws

variable {s : State} {i : Instr} {b : Byte}

/-- TXC and TX_PRIME are each one drain step (43_tx_drainer.md R101, R102). -/
theorem exec_of_drain (hi : i = .txc ∨ i = .txPrime) (s : State) : exec i s = .next (drainStep s) := by
  rcases hi with rfl | rfl <;> rfl

theorem transmit_of_idle (hbusy : s.txBusy = false) (hover : s.fTxovr = false) :
    transmit b s = { s with txBusy := true, wireTx := s.wireTx ++ [b] } := by
  simp [transmit, hbusy, hover]

theorem transmit_of_busy (hbusy : s.txBusy = true) :
    transmit b s =
      { s with fTxovr := true, wireTx := Config.freeWire s.wireDraws, wireDraws := s.wireDraws + 1 } := if_pos hbusy

theorem drainStep_of_byte (hlt : s.txIdx < s.cap) (hb : memGet s.txBuf s.txIdx = some b) (hne : b ≠ codeTerm) :
    drainStep s = reply (resOfByte b) (some b) (setTxIdx (s.txIdx + 1) (transmit b s)) :=
  (drainStep_of_defined hlt hb).trans (if_pos hne)

theorem drainStep_of_sentinel (hlt : s.txIdx < s.cap) (hb : memGet s.txBuf s.txIdx = some codeTerm) :
    drainStep s = reply resOk none (setTxIdx 0 s) :=
  (drainStep_of_defined hlt hb).trans (if_neg (not_not.mpr rfl))

/-- Over an `undef` byte the drain step goes by the next free value of the TX space (20_memory.md R35). -/
theorem drainStep_of_undef (hlt : s.txIdx < s.cap) (hb : memGet s.txBuf s.txIdx = none) :
    drainStep s =
      if Config.freeByte .tx s.txDraws ≠ codeTerm then
        reply (resOfByte (Config.freeByte .tx s.txDraws)) (some (Config.freeByte .tx s.txDraws))
          (setTxIdx (s.txIdx + 1) (transmit (Config.freeByte .tx s.txDraws) (setDraws .tx (s.txDraws + 1) s)))
      else reply resOk none (setTxIdx 0 (setDraws .tx (s.txDraws + 1) s)) := by
  obtain ⟨hread, hafter⟩ := readByte_undef (sp := .tx) (s := s) hb
  rw [drainStep, if_pos hlt, hread, hafter]
  rfl

/-- Settles O21: the store, and what the buffer reads as behind it. -/
theorem txWrStoresItsByteOnly : Obligations.TxWrStoresItsByteOnly := fun idx b s hidx =>
  ⟨exec_txWr_eq_next.mpr (.inl ⟨decide_eq_true hidx, rfl⟩), fun j => memGet_memPut s.txBuf idx.toNat j b⟩

/-- Settles O22. -/
theorem drainStepSendsTheByte : Obligations.DrainStepSendsTheByte := by
  intro s b hlt hb hne hbusy hover i hi
  rw [exec_of_drain hi, drainStep_of_byte hlt hb hne, transmit_of_idle hbusy hover]
  rfl

/-- Settles O23: the wire is the free value that the overrun draws. -/
theorem drainStepWhileBusyOverruns : Obligations.DrainStepWhileBusyOverruns := by
  intro s b hlt hb hne hbusy i hi
  refine ⟨Config.freeWire s.wireDraws, ?_⟩
  rw [exec_of_drain hi, drainStep_of_byte hlt hb hne, transmit_of_busy hbusy]
  rfl

/-- Settles O24. -/
theorem drainStepStopsAtTheSentinel : Obligations.DrainStepStopsAtTheSentinel := by
  intro s hlt hb i hi
  rw [exec_of_drain hi, drainStep_of_sentinel hlt hb]
  rfl

/-- Settles O25. -/
theorem drainStepAtTheBoundReadsNothing : Obligations.DrainStepAtTheBoundReadsNothing := by
  intro s m hge i hi
  rw [exec_of_drain hi, drainStep_at_bound (s := { s with txBuf := m }) hge]
  rfl

/-- Settles O26: the value is the one that the read of the `undef` byte draws. -/
theorem drainStepOverUndefSendsOrStops : Obligations.DrainStepOverUndefSendsOrStops := by
  intro s hlt hb i hi
  refine ⟨Config.freeByte .tx s.txDraws, drainStep s, exec_of_drain hi s, ?_⟩
  by_cases hv : Config.freeByte .tx s.txDraws = codeTerm
  · rw [drainStep_of_undef hlt hb, if_neg (not_not.mpr hv)]
    refine ⟨?_, ?_, ?_, ?_, ?_, fun _ => ?_, fun hne => absurd hv hne⟩ <;> simp [resOk]
  · rw [drainStep_of_undef hlt hb, if_pos hv]
    refine ⟨?_, ?_, ?_, ?_, ?_, fun hzero => absurd hzero hv, fun _ => ?_⟩ <;> simp [resOfByte]

/-- Settles O27: the drain step by its outcomes, and for every other operation its column of the read and write matrix. -/
theorem txDrainerTransitions : Obligations.TxDrainerTransitions := by
  refine ⟨fun i s b hi hlt hb hne => ⟨_, exec_of_drain hi s, ?_⟩, fun i s hi hstop => ⟨_, exec_of_drain hi s, ?_⟩,
    fun idx b s => ?_, fun s => ⟨_, exec_rst_eq_next.mpr rfl, rfl, rfl⟩, fun i s t notTxc notPrime notRst h => ?_,
    fun o s e hd => ⟨_, serveWord_of_error hd, rfl, rfl⟩⟩
  · rw [drainStep_of_byte hlt hb hne]
    exact ⟨decide_eq_true (Nat.succ_pos _), rfl, rfl⟩
  · have hstops : drainStep s = reply resOk none (setTxIdx 0 s) :=
      hstop.elim (fun ⟨hlt, hb⟩ => drainStep_of_sentinel hlt hb) (fun hcap => drainStep_at_bound hcap.ge)
    rw [hstops]
    exact ⟨rfl, rfl⟩
  · cases hidx : indexLegal idx s with
    | true => exact ⟨_, exec_txWr_eq_next.mpr (.inl ⟨hidx, rfl⟩), rfl, rfl⟩
    | false => exact ⟨_, exec_txWr_eq_next.mpr (.inr ⟨hidx, rfl⟩), rfl, rfl⟩
  · obtain ⟨hout, -⟩ := exec_keeps_peripheral h notTxc notPrime
    exact ⟨exec_keeps_txIdx h notTxc notPrime notRst, hout⟩

end Sys2Proof.Proofs

/-! ### The byte that a drain in progress owes -/

namespace Sys2Proof.Proofs

open Sys2Proof Sys2Proof.Machine Sys2Proof.Laws

variable {s t : State}

/-- A drain step leaves `SendOwed`, whatever was before it: it advances only by handing a byte over. -/
theorem sendOwed_drainStep (s : State) : SendOwed (drainStep s) := by
  rcases drainStep_cases s with ⟨-, -, h⟩ | ⟨-, -, h⟩ | ⟨-, h⟩ <;> simp [SendOwed, h]

theorem exec_keeps_sendOwed {i : Instr} (h : exec i s = .next t) (howed : SendOwed s) : SendOwed t := by
  cases exec_effect h with
  | frame => simpa [SendOwed, frameByte_frame] using howed
  | drain => exact sendOwed_drainStep s
  | store | clear | look => exact howed
  | reset => exact fun hpos => absurd hpos (Nat.lt_irrefl 0)

/-- The peripheral's own TXC clears `tx_busy`, but its drain step restores `SendOwed`. -/
theorem serveWord_keeps_sendOwed {o : Offer} (h : serveWord o s = .next t) (howed : SendOwed s) : SendOwed t := by
  obtain ⟨e, -, rfl⟩ | ⟨i, -, hx⟩ := serveWord_next_cases h
  · exact howed
  · obtain ⟨rfl, -, -⟩ | ⟨-, harrive⟩ := arrive_cases o i s
    · obtain rfl := exec_txc_eq_next.mp hx
      exact sendOwed_drainStep _
    · rw [harrive] at hx
      exact exec_keeps_sendOwed hx howed

/-- Settles O48: a step without a word is idle or a reset, and a word is refused or performed. -/
theorem stepKeepsTheOwedTransmitComplete : Obligations.StepKeepsTheOwedTransmitComplete := by
  intro s t howed h
  obtain ⟨-, rfl⟩ | ⟨now, later, -, -, rfl⟩ | ⟨now, later, -, -, -, rfl⟩ | ⟨now, later, o, -, -, -, hw⟩ :=
    step_next_cases h
  · exact howed
  · exact fun hpos => absurd hpos (Nat.lt_irrefl 0)
  · exact howed
  · exact serveWord_keeps_sendOwed hw howed

end Sys2Proof.Proofs

/-! ### The full drain of a message -/

namespace Sys2Proof.Proofs

open Sys2Proof Sys2Proof.Machine Sys2Proof.Laws

/-- The message that stands from an index: its bytes, then the sentinel unless the buffer ends there (20_memory.md R50). -/
theorem contentLoop_of_message {l : List Byte} {m : Memory} {fuel i : Nat} (hlen : l.length ≤ fuel)
    (hnul : ∀ b ∈ l, b ≠ codeTerm) (htext : ∀ k < l.length, memGet m (i + k) = l[k]?)
    (hend : l.length < fuel → memGet m (i + l.length) = some codeTerm) : contentLoop fuel m i = some l := by
  induction l generalizing fuel i with
  | nil =>
    cases fuel with
    | zero => rfl
    | succ n =>
      have hhere : memGet m i = some codeTerm := hend n.succ_pos
      rw [contentLoop_succ_of_defined hhere, if_pos rfl]
  | cons b l ih =>
    obtain ⟨n, rfl⟩ := Nat.exists_eq_succ_of_ne_zero (Nat.ne_zero_of_lt hlen)
    have hhere : memGet m i = some b := htext 0 (Nat.succ_pos _)
    have hrest : contentLoop n m (i + 1) = some l :=
      ih (Nat.le_of_succ_le_succ hlen) (fun c hc => hnul c (List.mem_cons_of_mem b hc))
        (fun k hk => by rw [Nat.add_right_comm]; exact htext (k + 1) (Nat.succ_lt_succ hk))
        (fun hlt => by rw [Nat.add_right_comm]; exact hend (Nat.succ_lt_succ hlt))
    rw [contentLoop_succ_of_defined hhere, if_neg (hnul b List.mem_cons_self), hrest]
    rfl

/-- What a drain over defined bytes leaves as it was: the TX buffer and its draws, the RX side, the inputs and the
capacity. -/
structure DrainKeeps (s t : State) : Prop where
  txBuf : t.txBuf = s.txBuf
  txDraws : t.txDraws = s.txDraws
  rxBuf : t.rxBuf = s.rxBuf
  rxCur : t.rxCur = s.rxCur
  rxReady : t.rxReady = s.rxReady
  inputs : t.inputs = s.inputs
  cap : t.cap = s.cap

variable {s t u : State} {wire l : List Byte}

theorem DrainKeeps.trans (h : DrainKeeps s t) (h' : DrainKeeps t u) : DrainKeeps s u where
  txBuf := h'.txBuf.trans h.txBuf
  txDraws := h'.txDraws.trans h.txDraws
  rxBuf := h'.rxBuf.trans h.rxBuf
  rxCur := h'.rxCur.trans h.rxCur
  rxReady := h'.rxReady.trans h.rxReady
  inputs := h'.inputs.trans h.inputs
  cap := h'.cap.trans h.cap

theorem drainKeeps_arrived (i : Instr) (s : State) : DrainKeeps s (arrived i s) := ⟨rfl, rfl, rfl, rfl, rfl, rfl, rfl⟩

/-- A drain step with something defined to send draws no value. -/
theorem drainKeeps_drainStep (h : toSend s = some l) : DrainKeeps s (drainStep s) := by
  obtain ⟨hrxBuf, hrxCur, hready, htxBuf, hcap, hinputs, -⟩ := drainStep_frame s
  have hdraws : (drainStep s).txDraws = s.txDraws := by
    obtain ⟨-, hstep⟩ | ⟨b, rest, -, -, hstep⟩ := drainStep_of_toSend h <;> simp [hstep]
  exact ⟨htxBuf, hdraws, hrxBuf, hrxCur, hready, hinputs, hcap⟩

theorem drainKeeps_served {i : Instr} (h : SendsUpTo wire l s) : DrainKeeps s (drainStep (arrived i s)) := by
  obtain ⟨hsend, -⟩ := h
  exact (drainKeeps_arrived i s).trans (drainKeeps_drainStep hsend)

/-- An operation's word is served as the operation, with the peripheral's side of it done. -/
theorem serveAll_cons_encode {i : Instr} (h : exec i (arrived i s) = .next t) (ws : List OpWord) :
    serveAll (encode i :: ws) s = serveAll ws t := by
  rw [serveAll, step_offerWord_encode, h]

/-- A drain operation that finds the peripheral idle, and then one TXC for each byte yet to send, send all of it and come
to rest: the last of them finds the end of the message. -/
theorem serveAll_drain {i : Instr} (hi : i = .txc ∨ i = .txPrime) (hidle : (arrived i s).txBusy = false)
    (h : SendsUpTo wire l s) :
    ∃ t, serveAll (encode i :: List.replicate l.length (encode .txc)) s = .next t ∧
      t.wireTx = wire ∧ resting t = true ∧ t.fTxovr = false ∧ DrainKeeps s t := by
  induction l generalizing i s with
  | nil =>
    obtain ⟨-, hstop⟩ | ⟨_, _, ⟨⟩, -⟩ := drainStep_of_sendsUpTo (s := arrived i s) hidle h
    have hkeeps : DrainKeeps s (drainStep (arrived i s)) := drainKeeps_served h
    obtain ⟨-, hwire, hover⟩ := h
    refine ⟨_, serveAll_cons_encode (exec_of_drain hi _) [], ?_, ?_, ?_, hkeeps⟩ <;> rw [hstop]
    · rwa [List.append_nil] at hwire
    · simpa [resting, txIdle] using hidle
    · exact hover
  | cons b l ih =>
    obtain ⟨⟨⟩, -⟩ | ⟨_, _, ⟨⟩, -, hrest⟩ := drainStep_of_sendsUpTo (s := arrived i s) hidle h
    obtain ⟨t, ht, hwire, hrests, hover, hkeeps⟩ := ih (.inl rfl) rfl hrest
    exact ⟨t, (serveAll_cons_encode (exec_of_drain hi _) _).trans ht, hwire, hrests, hover,
      (drainKeeps_served h).trans hkeeps⟩

/-- Settles O28: TX_PRIME at index 0 finds the whole message yet to send. -/
theorem fullDrainSendsTheMessage : Obligations.FullDrainSendsTheMessage := by
  intro s l hlen hnul htext hend hidx hidle hover
  have hmessage : txMessage s = some l :=
    contentLoop_of_message hlen hnul (by simpa using htext) (by simpa [codeTerm] using hend)
  have hsend : SendsUpTo (s.wireTx ++ l) l s := ⟨(toSend_of_txIdx_zero hidx).trans hmessage, rfl, hover⟩
  obtain ⟨t, hserve, hwire, hrest, hnone, hkeeps⟩ := serveAll_drain (.inr rfl) hidle hsend
  obtain ⟨htxBuf, htxDraws, hrxBuf, hrxCur, hready, hinputs, hcap⟩ := hkeeps
  exact ⟨t, hserve, hwire, hrest, hnone, htxBuf, htxDraws, hrxBuf, hrxCur, hready, hinputs, hcap⟩

end Sys2Proof.Proofs

/-! PROOFS. The family 44_system.md: the obligations O10 and O41, the block's reset by the pin and by the operation. -/

/-! ### The two resets -/

namespace Sys2Proof.Proofs

open Sys2Proof Sys2Proof.Machine Sys2Proof.Laws

/-- Settles O10: the step with the pin high resets the block behind the instant, whose words it never looks at, and
answers quietly. -/
theorem resetPinWinsOverTheInstantsWords : Obligations.ResetPinWinsOverTheInstantsWords := by
  intro s now later hin hr
  have hstep : step s = .next (quiet (resetBlock (passInstant later s))) := step_of_rst hin hr
  simpa only [quiet, resetBlock, passInstant] using hstep

/-- Settles O41: RST answers the reset block with the result word `(ST_OK, 0, 0)`. -/
theorem rstResetsTheFiveItems : Obligations.RstResetsTheFiveItems := by
  intro s
  have hexec : exec .rst s = .next (reply resOk none (resetBlock s)) := exec_rst_eq_next.mpr rfl
  simpa only [reply, resOk, resetBlock] using hexec

end Sys2Proof.Proofs

/-! PROOFS. The family 60_exceptions.md: no overrun in the closed system (O49), the status codes and who raises them (O52),
the illegal word (O5), the index out of range (O17), and the idle step (O9). -/

/-! ### No overrun in the closed system -/

namespace Sys2Proof.Proofs

open Sys2Proof Sys2Proof.Machine Sys2Proof.Laws

variable {s t : State} {o : Offer}

theorem fetch_of_offer {now : Instant} {later : List Instant} (hin : s.inputs = now :: later) (hr : now.rst = false)
    (ho : chosenOffer now.offers s.arbDraws = some o) : fetch s = .word o (takeWord o now later s) := by
  simp [fetch, hin, hr, ho]

/-- The closed system admits a TXC only as the peripheral's own, with a byte in flight (60_exceptions.md R129). -/
theorem closedOffer_of_txc (hd : decode (portIssuer o.port) o.word = .ok .txc) :
    closedOffer s o = true ↔ s.txBusy = true ∧ o.injected = false := by
  simp [closedOffer, hd]

/-- With no byte in flight a drain step hands over at most one, which is no overrun (60_exceptions.md R128). -/
theorem drainStep_fTxovr_of_idle (hbusy : s.txBusy = false) (hover : s.fTxovr = false) :
    (drainStep s).fTxovr = false := by
  rcases drainStep_cases s with ⟨-, -, h⟩ | ⟨-, -, h⟩ | ⟨-, h⟩ <;> simp [h, hbusy, hover]

/-- A drain step finds no byte in flight: the peripheral's own TXC has cleared `tx_busy`, and a TX_PRIME is not early. -/
theorem serveWord_keeps_no_overrun (h : serveWord o s = .next t) (hclosed : closedOffer s o = true)
    (hprime : decode (portIssuer o.port) o.word = .ok .txPrime → s.txBusy = false) (hover : s.fTxovr = false) :
    t.fTxovr = false := by
  obtain ⟨e, -, rfl⟩ | ⟨i, hd, hx⟩ := serveWord_next_cases h
  · simpa using hover
  by_cases htxc : i = .txc
  · subst htxc
    obtain ⟨-, howned⟩ := (closedOffer_of_txc hd).mp hclosed
    obtain rfl := exec_txc_eq_next.mp hx
    exact drainStep_fTxovr_of_idle (by simp [arrive_eq, howned]) (by simpa using hover)
  by_cases htxPrime : i = .txPrime
  · subst htxPrime
    obtain rfl := exec_txPrime_eq_next.mp hx
    exact drainStep_fTxovr_of_idle (by simp [arrive_eq, hprime hd]) (by simpa using hover)
  · obtain ⟨-, -, -, hkept⟩ := exec_keeps_peripheral hx htxc htxPrime
    simpa [hkept] using hover

/-- Settles O49: a step without a word leaves the flag, and for a word that is served the premises say what is in flight. -/
theorem overrunOnlyByEarlyPrimeOrInjectedTxc : Obligations.OverrunOnlyByEarlyPrimeOrInjectedTxc := by
  intro s t hclosed hprime hover h
  obtain ⟨-, rfl⟩ | ⟨now, later, -, -, rfl⟩ | ⟨now, later, -, -, -, rfl⟩ | ⟨now, later, o, hin, hr, ho, hw⟩ :=
    step_next_cases h
  · simpa using hover
  · simpa using hover
  · simpa using hover
  · have hf := fetch_of_offer hin hr ho
    rw [closedStep, hf] at hclosed
    rw [primeTooEarly, hf] at hprime
    exact serveWord_keeps_no_overrun hw hclosed (fun hd => by simpa [hd] using hprime) (by simpa using hover)

end Sys2Proof.Proofs

/-! ### The status codes and who raises them -/

namespace Sys2Proof.Proofs

open Sys2Proof Sys2Proof.Machine Sys2Proof.Laws

/-- The verdict of a decoder: success, or a failure without a value (41_numeric_decode.md R78). -/
def VerdictSound (d : Decoded) : Prop := d.st = .ok ∨ ((d.st = .overflow ∨ d.st = .malformed) ∧ d.val = 0)

theorem verdictSound_ok (val k : Nat) : VerdictSound ⟨.ok, val, k⟩ := .inl rfl

theorem verdictSound_overflow (k : Nat) : VerdictSound ⟨.overflow, 0, k⟩ := .inr ⟨.inl rfl, rfl⟩

theorem verdictSound_malformed (k : Nat) : VerdictSound ⟨.malformed, 0, k⟩ := .inr ⟨.inr rfl, rfl⟩

theorem verdictSound_decodeDecimalLoop (text : List Byte) (val k : Nat) :
    VerdictSound (decodeDecimalLoop text val k) := by
  induction text generalizing val k with
  | nil => exact verdictSound_ok val k
  | cons c cs ih =>
    cases hd : decval c with
    | none => rw [decodeDecimalLoop_cons_of_none hd]; exact verdictSound_malformed k
    | some d =>
      rw [decodeDecimalLoop_cons_of_digit hd]
      split
      · exact verdictSound_overflow k
      · exact ih _ _

theorem verdictSound_decodeHexLoop (text : List Byte) (val k : Nat) : VerdictSound (decodeHexLoop text val k) := by
  induction text generalizing val k with
  | nil => exact verdictSound_ok val k
  | cons c cs ih =>
    by_cases hc : c = codeSp
    · rw [hc, decodeHexLoop_cons_of_space]
      exact ih _ _
    · cases hd : hexval c with
      | none => rw [decodeHexLoop_cons_of_none hc hd]; exact verdictSound_malformed k
      | some d =>
        rw [decodeHexLoop_cons_of_digit hc hd]
        split
        · exact verdictSound_overflow k
        · exact ih _ _

variable {s t : State} {i : Instr} {r : Res}

theorem drainStep_res_ok (s : State) : ∃ r, (drainStep s).res = some r ∧ r.st = .ok := by
  rcases drainStep_cases s with ⟨-, -, h⟩ | ⟨-, -, h⟩ | ⟨-, h⟩ <;> rw [h] <;> exact ⟨_, rfl, rfl⟩

/-- Everything an operation can answer with: `ST_OK`, the refusal of its index, or what its decoder found. -/
theorem exec_status_cases (h : exec i s = .next t) :
    (∃ r, t.res = some r ∧ r.st = .ok) ∨
    (i.index?.isSome = true ∧ t = refuse .index s) ∨
    (∃ off d, (i = .decDec off ∨ i = .decHex off) ∧ VerdictSound d ∧
      t = reply (resOfDecoded d) none (afterScan (indexOf off) s)) := by
  cases i with
  | rxb b => obtain ⟨-, rfl⟩ := exec_rxb_eq_next.mp h; exact .inl ⟨_, rfl, rfl⟩
  | txc => obtain rfl := exec_txc_eq_next.mp h; exact .inl (drainStep_res_ok s)
  | rdyRd => obtain rfl := exec_rdyRd_eq_next.mp h; exact .inl ⟨_, rfl, rfl⟩
  | rdyClr => obtain rfl := exec_rdyClr_eq_next.mp h; exact .inl ⟨_, rfl, rfl⟩
  | rxRd idx =>
    obtain ⟨-, rfl⟩ | ⟨-, ht⟩ := exec_rxRd_eq_next.mp h
    · exact .inl ⟨_, rfl, rfl⟩
    · exact .inr (.inl ⟨rfl, ht⟩)
  | txWr idx b =>
    obtain ⟨-, rfl⟩ | ⟨-, ht⟩ := exec_txWr_eq_next.mp h
    · exact .inl ⟨_, rfl, rfl⟩
    · exact .inr (.inl ⟨rfl, ht⟩)
  | txPrime => obtain rfl := exec_txPrime_eq_next.mp h; exact .inl (drainStep_res_ok s)
  | encDec v => obtain rfl := exec_encDec_eq_next.mp h; exact .inl ⟨_, rfl, rfl⟩
  | encHex v g => obtain rfl := exec_encHex_eq_next.mp h; exact .inl ⟨_, rfl, rfl⟩
  | decDec off =>
    obtain ⟨-, ht⟩ | ⟨-, ht⟩ := exec_decDec_eq_next.mp h
    · exact .inr (.inr ⟨off, _, .inl rfl, verdictSound_decodeDecimalLoop _ 0 0, ht⟩)
    · exact .inr (.inl ⟨rfl, ht⟩)
  | decHex off =>
    obtain ⟨-, ht⟩ | ⟨-, ht⟩ := exec_decHex_eq_next.mp h
    · exact .inr (.inr ⟨off, _, .inr rfl, verdictSound_decodeHexLoop _ 0 0, ht⟩)
    · exact .inr (.inl ⟨rfl, ht⟩)
  | rst => obtain rfl := exec_rst_eq_next.mp h; exact .inl ⟨_, rfl, rfl⟩

/-- A decoder's failure has no value, so that the data of its result is zero. -/
theorem resOfDecoded_data_of_val_zero {d : Decoded} (h : d.val = 0) : (resOfDecoded d).data = 0 := by
  simp [resOfDecoded, valueData, h]

/-- `ST_ILLEGAL` is no answer of an operation (60_exceptions.md R113). -/
theorem exec_status_ne_illegal (h : exec i s = .next t) (hr : t.res = some r) : r.st ≠ .illegal := by
  obtain ⟨q, hq, hok⟩ | ⟨-, rfl⟩ | ⟨off, d, -, hd, rfl⟩ := exec_status_cases h
  · obtain rfl := Option.some.inj (hq.symm.trans hr)
    simp [hok]
  · obtain rfl := Option.some.inj hr
    decide
  · obtain rfl := Option.some.inj hr
    show d.st ≠ .illegal
    rcases hd with hst | ⟨hst | hst, -⟩ <;> simp [hst]

/-- Settles O52: an operation's status by its three kinds of answer, of which `ST_ILLEGAL` is none. -/
theorem statusCodesAndWhoRaisesThem : Obligations.StatusCodesAndWhoRaisesThem := by
  refine ⟨⟨rfl, rfl, rfl, rfl, rfl, fun st => by cases st <;> decide⟩, fun i s t r h hr => ?_,
    fun o s t r h hr hst => ?_⟩
  · obtain ⟨q, hq, hok⟩ | ⟨hindex, rfl⟩ | ⟨off, d, hi, hd, rfl⟩ := exec_status_cases h
    · obtain rfl := Option.some.inj (hq.symm.trans hr)
      exact .inl hok
    · obtain rfl := Option.some.inj hr
      exact .inr (.inl ⟨rfl, hindex, rfl, rfl, rfl⟩)
    · obtain rfl := Option.some.inj hr
      obtain hok | ⟨hfailed, hval⟩ := hd
      · exact .inl hok
      · exact .inr (.inr ⟨hfailed, ⟨off, hi⟩, resOfDecoded_data_of_val_zero hval, rfl⟩)
  · obtain ⟨e, hd, rfl⟩ | ⟨i, -, hx⟩ := serveWord_next_cases h
    · obtain rfl := Option.some.inj hr
      exact ⟨⟨e, hd⟩, rfl, rfl, rfl⟩
    · exact absurd hst (exec_status_ne_illegal hx hr)

end Sys2Proof.Proofs

/-! ### The illegal word -/

namespace Sys2Proof.Proofs

open Sys2Proof Sys2Proof.Machine Sys2Proof.Laws

/-- A word is illegal from an issuer exactly when it stands for no operation of that issuer (30_encoding.md R56). -/
theorem exists_decode_error_iff {p : Issuer} {w : OpWord} :
    (∃ e, decode p w = .error e) ↔ ∀ i, decodeWord w = some i → i.issuer ≠ p := by
  constructor
  · rintro ⟨e, he⟩ i hw hp
    rw [decode_ok_iff.mpr ⟨hw, hp⟩] at he
    cases he
  · intro h
    cases hd : decode p w with
    | error e => exact ⟨e, rfl⟩
    | ok i =>
      obtain ⟨hw, hp⟩ := decode_ok_iff.mp hd
      exact absurd hp (h i hw)

/-- Settles O5: either way the word stands for no operation of its issuer, and decoding refuses it. -/
theorem illegalWordHasNoEffect : Obligations.IllegalWordHasNoEffect := by
  intro o s hillegal
  obtain ⟨e, hd⟩ : ∃ e, decode (portIssuer o.port) o.word = .error e := by
    refine exists_decode_error_iff.mpr fun i hi => ?_
    obtain hnone | ⟨j, hj, hissuer⟩ := hillegal
    · obtain ⟨r, hr, hm, -⟩ := decodeWord_eq_some_iff.mp hi
      simp [hnone r hr] at hm
    · obtain rfl := Option.some.inj (hj.symm.trans hi)
      exact hissuer
  exact serveWord_of_error hd

end Sys2Proof.Proofs

/-! ### The index out of range -/

namespace Sys2Proof.Proofs

open Sys2Proof Sys2Proof.Machine Sys2Proof.Laws

/-- Every operation with an index refuses one outside the buffer (60_exceptions.md R114). -/
theorem exec_of_index_outside {i : Instr} {idx : Byte} {s : State} (hi : i.index? = some idx) (h : s.cap ≤ idx.toNat) :
    exec i s = .next (refuse .index s) := by
  have hlegal : indexLegal idx s = false := decide_eq_false (Nat.not_lt.mpr h)
  cases i <;> cases hi
  case rxRd => exact exec_rxRd_eq_next.mpr (.inr ⟨hlegal, rfl⟩)
  case txWr => exact exec_txWr_eq_next.mpr (.inr ⟨hlegal, rfl⟩)
  case decDec => exact exec_decDec_eq_next.mpr (.inr ⟨hlegal, rfl⟩)
  case decHex => exact exec_decHex_eq_next.mpr (.inr ⟨hlegal, rfl⟩)

/-- Settles O17: the refusal of an index, the cursor's bound in the invariant, and the drain step at its bound. -/
theorem indexOutOfRangeIsRefused : Obligations.IndexOutOfRangeIsRefused := by
  refine ⟨fun idx b s h => ⟨exec_of_index_outside rfl h, exec_of_index_outside rfl h, exec_of_index_outside rfl h,
    exec_of_index_outside rfl h⟩, fun s hinv => ?_, fun i s m hi hge => ?_⟩
  · obtain ⟨⟨hcap, -⟩, hrx, -⟩ := blockInv_iff.mp hinv
    have hcursor := hrx.cursor
    omega
  · rw [exec_of_drain hi, drainStep_at_bound (s := { s with txBuf := m }) hge]
    rfl

end Sys2Proof.Proofs

/-! ### The idle step -/

namespace Sys2Proof.Proofs

open Sys2Proof Sys2Proof.Machine Sys2Proof.Laws

/-- Settles O9: a step without a word sets the outputs alone, behind the instant where there is one. -/
theorem idleBlockLosesNoState : Obligations.IdleBlockLosesNoState :=
  ⟨fun _ hin => step_of_no_input hin, fun _ _ hin => step_of_no_offer hin rfl rfl⟩

end Sys2Proof.Proofs

/-! PROOFS. The family 70_reset_and_hazards.md: the obligation O55, the end of a run. -/

/-! ### The end of a run -/

namespace Sys2Proof.Proofs

open Sys2Proof Sys2Proof.Machine Sys2Proof.Laws

variable {p : Peripheral} {s t : State}

theorem exhausted_iff : exhausted s = true ↔ ∀ now ∈ s.inputs, now.offers = [] ∧ now.rst = false := by
  simp [exhausted]

theorem runOver_iff : runOver p s = true ↔ exhausted s = true ∧ (p = .openSystem ∨ s.txBusy = false) := by
  simp [runOver]

/-- Once the words are exhausted a step is an idle one: it passes over at most the first of the instants to come. -/
theorem step_of_exhausted (h : exhausted s = true) :
    step s = .next (quiet s) ∨
      ∃ now later, s.inputs = now :: later ∧ step s = .next (quiet (passInstant later s)) := by
  cases hin : s.inputs with
  | nil => exact .inl (step_of_no_input hin)
  | cons now later =>
    obtain ⟨hoffers, hrst⟩ := exhausted_iff.mp h now (hin ▸ List.mem_cons_self)
    exact .inr ⟨now, later, rfl, step_of_no_offer hin hrst hoffers⟩

/-- A state with the same transmit-complete event owed and no instant to come that was not there before is over too. -/
theorem runOver_of_inputs_subset (hsub : t.inputs ⊆ s.inputs) (hbusy : t.txBusy = s.txBusy) (h : runOver p s = true) :
    runOver p t = true := by
  obtain ⟨hwords, howed⟩ := runOver_iff.mp h
  exact runOver_iff.mpr ⟨exhausted_iff.mpr fun now hnow => exhausted_iff.mp hwords now (hsub hnow), hbusy ▸ howed⟩

/-- Settles O55: the end of a run by its two conditions, and its stability by the idle step, which changes nothing but the
outputs and the instants to come. -/
theorem runIsOverWhenItsWordsAreExhausted : Obligations.RunIsOverWhenItsWordsAreExhausted := by
  refine ⟨fun s => ⟨?_, ?_⟩, fun p s hover => ?_⟩
  · simp [runOver_iff, exhausted_iff]
  · simp [runOver_iff]
  · obtain ⟨hwords, -⟩ := runOver_iff.mp hover
    obtain hstep | ⟨now, later, hin, hstep⟩ := step_of_exhausted hwords
    · exact ⟨_, hstep, runOver_of_inputs_subset (List.Subset.refl _) rfl hover, rfl, rfl⟩
    · have hsub : later ⊆ s.inputs := hin ▸ List.subset_cons_self now later
      exact ⟨_, hstep, runOver_of_inputs_subset hsub rfl hover, rfl, rfl⟩

end Sys2Proof.Proofs

/-! PROOFS. The family 20_memory.md section 7: the obligation O44, the operations that commute. -/

/-! ### The two sides of the state -/

namespace Sys2Proof.Proofs

open Sys2Proof Sys2Proof.Machine Sys2Proof.Laws

/-- The RX side of `x`, with what 10_state.md R30 makes a parameter; the TX side of `y`, with the peripheral's
bookkeeping; the result word and the handed byte of `o`. -/
def joinSides (x y o : State) : State :=
  { x with
    txBuf := y.txBuf, txIdx := y.txIdx, txBusy := y.txBusy, wireTx := y.wireTx, fTxovr := y.fTxovr
    txDraws := y.txDraws, wireDraws := y.wireDraws
    res := o.res, txOut := o.txOut }

variable {a b : Instr} {s t x y o : State}

theorem quiet_joinSides (x y o p : State) : quiet (joinSides x y o) = quiet (joinSides x y p) := rfl

theorem reply_joinSides_rx (r : Res) (tx : Option Byte) (x y o : State) :
    reply r tx (joinSides x y o) = joinSides (reply r tx x) y (reply r tx x) := rfl

theorem frameByte_joinSides (c : Byte) (x y o : State) :
    frameByte c (joinSides x y o) = joinSides (frameByte c x) y o := by
  rcases frameByte_cases c x with ⟨hend, h⟩ | ⟨hend, hcut, h⟩ | ⟨hend, hcut, h⟩ <;> rw [h]
  · exact frameByte_of_lineEnd hend
  · exact frameByte_of_cut hend hcut
  · exact frameByte_of_not_cut hend hcut

theorem afterRead_rx_joinSides (k : Nat) (x y o : State) :
    afterRead .rx k (joinSides x y o) = joinSides (afterRead .rx k x) y o := by
  have hbuf : spaceBuf (joinSides x y o) .rx = spaceBuf x .rx := rfl
  cases h : memGet (spaceBuf x .rx) k with
  | some c => rw [(readByte_defined h).2, (readByte_defined (hbuf ▸ h)).2]
  | none => rw [(readByte_undef h).2, (readByte_undef (hbuf ▸ h)).2]; rfl

theorem afterRead_tx_joinSides (k : Nat) (x y o : State) :
    afterRead .tx k (joinSides x y o) = joinSides x (afterRead .tx k y) o := by
  have hbuf : spaceBuf (joinSides x y o) .tx = spaceBuf y .tx := rfl
  cases h : memGet (spaceBuf y .tx) k with
  | some c => rw [(readByte_defined h).2, (readByte_defined (hbuf ▸ h)).2]
  | none => rw [(readByte_undef h).2, (readByte_undef (hbuf ▸ h)).2]; rfl

theorem transmit_joinSides (c : Byte) (x y o : State) :
    transmit c (joinSides x y o) = joinSides x (transmit c y) o := by
  have hbusy : (joinSides x y o).txBusy = y.txBusy := rfl
  have hover : (joinSides x y o).fTxovr = y.fTxovr := rfl
  unfold transmit
  rw [hbusy, hover]
  split
  · rfl
  · split <;> rfl

theorem drainStep_joinSides (x o : State) (hcap : y.cap = x.cap) :
    drainStep (joinSides x y o) = joinSides x (drainStep y) (drainStep y) := by
  have hidx : (joinSides x y o).txIdx = y.txIdx := rfl
  have hcap' : (joinSides x y o).cap = y.cap := hcap.symm
  have hread : readByte .tx y.txIdx (joinSides x y o) = readByte .tx y.txIdx y := rfl
  unfold drainStep
  rw [hidx, hcap', hread, afterRead_tx_joinSides, transmit_joinSides]
  split
  · split <;> rfl
  · rfl

/-! ### An operation works on its side alone -/

/-- An operation on the RX state does the same whatever the TX side, and leaves that side alone. -/
theorem exec_joinSides_rx (ha : onRxState a = true) (h : exec a x = .next t) (y o : State) :
    exec a (joinSides x y o) = .next (joinSides t y t) := by
  cases a with
  | rxb c =>
    obtain ⟨hlt, rfl⟩ := exec_rxb_eq_next.mp h
    exact exec_rxb_eq_next.mpr ⟨hlt, by rw [frameByte_joinSides, reply_joinSides_rx]⟩
  | rxRd idx =>
    obtain ⟨hlegal, rfl⟩ | ⟨hlegal, rfl⟩ := exec_rxRd_eq_next.mp h
    · exact exec_rxRd_eq_next.mpr (.inl ⟨hlegal, by rw [afterRead_rx_joinSides]; rfl⟩)
    · exact exec_rxRd_eq_next.mpr (.inr ⟨hlegal, rfl⟩)
  | decDec off =>
    obtain ⟨hlegal, rfl⟩ | ⟨hlegal, rfl⟩ := exec_decDec_eq_next.mp h
    · exact exec_decDec_eq_next.mpr (.inl ⟨hlegal, rfl⟩)
    · exact exec_decDec_eq_next.mpr (.inr ⟨hlegal, rfl⟩)
  | decHex off =>
    obtain ⟨hlegal, rfl⟩ | ⟨hlegal, rfl⟩ := exec_decHex_eq_next.mp h
    · exact exec_decHex_eq_next.mpr (.inl ⟨hlegal, rfl⟩)
    · exact exec_decHex_eq_next.mpr (.inr ⟨hlegal, rfl⟩)
  | rdyRd | rdyClr => cases h; rfl
  | txc | txWr | txPrime | encDec | encHex | rst => cases ha

/-- An operation on the TX state does the same whatever the RX side with that capacity, and leaves that side alone. -/
theorem exec_joinSides_tx (hb : onTxState b = true) (h : exec b y = .next t) (x o : State) (hcap : y.cap = x.cap) :
    exec b (joinSides x y o) = .next (joinSides x t t) := by
  have hlegal (idx : Byte) : indexLegal idx (joinSides x y o) = indexLegal idx y := by
    unfold indexLegal; rw [hcap]; rfl
  cases b with
  | txc =>
    obtain rfl := exec_txc_eq_next.mp h
    exact exec_txc_eq_next.mpr (drainStep_joinSides x o hcap).symm
  | txPrime =>
    obtain rfl := exec_txPrime_eq_next.mp h
    exact exec_txPrime_eq_next.mpr (drainStep_joinSides x o hcap).symm
  | txWr idx c =>
    obtain ⟨hidx, rfl⟩ | ⟨hidx, rfl⟩ := exec_txWr_eq_next.mp h
    · exact exec_txWr_eq_next.mpr (.inl ⟨(hlegal idx).trans hidx, rfl⟩)
    · exact exec_txWr_eq_next.mpr (.inr ⟨(hlegal idx).trans hidx, rfl⟩)
  | rxb | rdyRd | rdyClr | rxRd | encDec | encHex | decDec | decHex | rst => cases hb

/-! What each leaves alone is the case of a state joined with itself. -/

theorem eq_joinSides_of_exec_rx (ha : onRxState a = true) (h : exec a s = .next t) : t = joinSides t s t :=
  Host.Outcome.next.inj (h.symm.trans (exec_joinSides_rx ha h s s))

theorem eq_joinSides_of_exec_tx (hb : onTxState b = true) (h : exec b s = .next t) : t = joinSides s t t :=
  Host.Outcome.next.inj (h.symm.trans (exec_joinSides_tx hb h s s rfl))

/-- An encoder answers, and does nothing else. -/
theorem exec_encoder (ha : onNoState a = true) : ∃ r, ∀ s, exec a s = .next (reply r none s) := by
  cases a with
  | encDec | encHex => exact ⟨_, fun _ => rfl⟩
  | rxb | txc | rdyRd | rdyClr | rxRd | txWr | txPrime | decDec | decHex | rst => cases ha

end Sys2Proof.Proofs

/-! ### The operations that commute -/

namespace Sys2Proof.Proofs

open Sys2Proof Sys2Proof.Machine Sys2Proof.Laws

variable {a b : Instr} {s s1 s2 : State}

/-- `b` then `a` answers too, and ends where `a` then `b` ended in `s2`, with the outputs that each operation gave
there: those of `a` are in `s1` and those of `b` in `s2`. -/
def SwapsTo (a b : Instr) (s s1 s2 : State) : Prop :=
  ∃ t1 t2, exec b s = .next t1 ∧ exec a t1 = .next t2 ∧ quiet t2 = quiet s2 ∧
    t1.res = s2.res ∧ t2.res = s1.res ∧ t1.txOut = s2.txOut ∧ t2.txOut = s1.txOut

theorem swapsTo_rx_tx (ha : onRxState a = true) (hb : onTxState b = true) (h1 : exec a s = .next s1)
    (h2 : exec b s1 = .next s2) : SwapsTo a b s s1 s2 := by
  have hs1 : s1 = joinSides s1 s s1 := eq_joinSides_of_exec_rx ha h1
  have hs2 : s2 = joinSides s1 s2 s2 := eq_joinSides_of_exec_tx hb h2
  obtain ⟨hcap, -⟩ := exec_keeps_parameters h1
  have hback : joinSides s s1 s = s := by rw [hs1]; rfl
  have h1' : exec b s = .next (joinSides s s2 s2) := hback ▸ exec_joinSides_tx hb h2 s s hcap
  have h2' : exec a (joinSides s s2 s2) = .next (joinSides s1 s2 s1) := exec_joinSides_rx ha h1 s2 s2
  have hend : quiet (joinSides s1 s2 s1) = quiet s2 := (quiet_joinSides s1 s2 s1 s2).trans (congrArg quiet hs2.symm)
  exact ⟨_, _, h1', h2', hend, rfl, rfl, rfl, rfl⟩

theorem swapsTo_tx_rx (ha : onTxState a = true) (hb : onRxState b = true) (h1 : exec a s = .next s1)
    (h2 : exec b s1 = .next s2) : SwapsTo a b s s1 s2 := by
  have hs1 : s1 = joinSides s s1 s1 := eq_joinSides_of_exec_tx ha h1
  have hs2 : s2 = joinSides s2 s1 s2 := eq_joinSides_of_exec_rx hb h2
  obtain ⟨hcap, -⟩ := exec_keeps_parameters h2
  obtain ⟨hcap1, -⟩ := exec_keeps_parameters h1
  have hback : joinSides s1 s s = s := by rw [hs1]; rfl
  have h1' : exec b s = .next (joinSides s2 s s2) := hback ▸ exec_joinSides_rx hb h2 s s
  have h2' : exec a (joinSides s2 s s2) = .next (joinSides s2 s1 s1) :=
    exec_joinSides_tx ha h1 s2 s2 (hcap.trans hcap1).symm
  have hend : quiet (joinSides s2 s1 s1) = quiet s2 := (quiet_joinSides s2 s1 s1 s2).trans (congrArg quiet hs2.symm)
  exact ⟨_, _, h1', h2', hend, rfl, rfl, rfl, rfl⟩

/-- An encoder before `b` is not seen by `b`, as no operation reads the outputs of the one before. -/
theorem swapsTo_encoder_left (ha : onNoState a = true) (h1 : exec a s = .next s1) (h2 : exec b s1 = .next s2) :
    SwapsTo a b s s1 s2 := by
  obtain ⟨r, hr⟩ := exec_encoder ha
  obtain rfl : reply r none s = s1 := Host.Outcome.next.inj ((hr s).symm.trans h1)
  have h1' : exec b s = .next s2 := exec_reframe_inputs (s := reply r none s) s.res s.txOut h2
  exact ⟨s2, reply r none s2, h1', hr s2, rfl, rfl, rfl, rfl, rfl⟩

/-- An encoder before `a` is not seen by `a`, as no operation reads the outputs of the one before. -/
theorem swapsTo_encoder_right (hb : onNoState b = true) (h1 : exec a s = .next s1) (h2 : exec b s1 = .next s2) :
    SwapsTo a b s s1 s2 := by
  obtain ⟨r, hr⟩ := exec_encoder hb
  obtain rfl : reply r none s1 = s2 := Host.Outcome.next.inj ((hr s1).symm.trans h2)
  have h2' : exec a (reply r none s) = .next s1 := exec_reframe_inputs (some r) none h1
  exact ⟨reply r none s, s1, hr s, h2', rfl, rfl, rfl, rfl, rfl⟩

theorem commutePair_iff : commutePair a b = true ↔
    (onRxState a = true ∧ onTxState b = true) ∨ (onTxState a = true ∧ onRxState b = true) ∨
      onNoState a = true ∨ onNoState b = true := by
  simp [commutePair, or_assoc]

theorem swapsTo_of_commutePair (hab : commutePair a b = true) (h1 : exec a s = .next s1) (h2 : exec b s1 = .next s2) :
    SwapsTo a b s s1 s2 := by
  obtain ⟨ha, hb⟩ | ⟨ha, hb⟩ | ha | hb := commutePair_iff.mp hab
  · exact swapsTo_rx_tx ha hb h1 h2
  · exact swapsTo_tx_rx ha hb h1 h2
  · exact swapsTo_encoder_left ha h1 h2
  · exact swapsTo_encoder_right hb h1 h2

/-- A byte in the slot that the next operation reads: the first slot of both buffers, with both cursors there. -/
def firstSlotsFilled : State := { State.reset with rxBuf := [(0, 0x42)], txBuf := [(0, 0x42)] }

/-- RX_RD of the slot at the cursor gives the new byte after RXB and the old one before it. -/
theorem rxb_rxRd_order_matters :
    ∃ s1 s2 t1 t2, exec (.rxb 0x41) firstSlotsFilled = .next s1 ∧ exec (.rxRd 0) s1 = .next s2 ∧
      exec (.rxRd 0) firstSlotsFilled = .next t1 ∧ exec (.rxb 0x41) t1 = .next t2 ∧ t1.res ≠ s2.res :=
  ⟨_, _, _, _, rfl, rfl, rfl, rfl, by decide⟩

/-- TXC with its index on the slot sends the new byte after TX_WR and the old one before it. -/
theorem txWr_txc_order_matters :
    ∃ s1 s2 t1 t2, exec (.txWr 0 0x41) firstSlotsFilled = .next s1 ∧ exec .txc s1 = .next s2 ∧
      exec .txc firstSlotsFilled = .next t1 ∧ exec (.txWr 0 0x41) t1 = .next t2 ∧ t1.res ≠ s2.res :=
  ⟨_, _, _, _, rfl, rfl, rfl, rfl, by decide⟩

/-- Settles O44: an operation works on its side of the state alone, an encoder on none; and inside one side a read of
the slot just written tells the order. -/
theorem disjointOperationsCommute : Obligations.DisjointOperationsCommute :=
  ⟨fun _ _ _ _ _ hab h1 h2 => swapsTo_of_commutePair hab h1 h2, ⟨_, _, _, rxb_rxRd_order_matters⟩,
    ⟨_, _, _, txWr_txc_order_matters⟩⟩

end Sys2Proof.Proofs
